-- ==== Sys2Proof/Word.lean ====
section
/-! DEFINITION. The two word types of BXC: the 8-bit cell of 00_scope.md R7 (CELL_WIDTH) and the
32-bit register word of R7 (REG_WIDTH). -/

namespace Sys2Proof

/-- A stream data byte, an alphabet cell or a digit-buffer cell: 8 bits (R7, CELL_WIDTH). -/
abbrev Byte := BitVec 8

/-- A register or bus word: 32 bits (R7, REG_WIDTH). -/
abbrev Word := BitVec 32

end Sys2Proof
end

