-- ==== Sys2Proof/Syntax.lean ====
section
/-! DEFINITION. The instruction syntax of BXC: one constructor of `Instr` per row of
spec/opcode_table.json, the words the host and the engine's selector present (30_encoding.md R80 to
R88), and the host transactions of R91 as turns of the host's agenda. -/

namespace Sys2Proof

/-- CONFIG.CODEC and LCODEC (10_state.md R23): all four values of the 2-bit field. -/
inductive Codec where
  | base64 | base58 | generic | reserved
deriving DecidableEq, Repr, Inhabited

/-- CONFIG.DIR and LDIR (R23). -/
inductive Dir where
  | encode | decode
deriving DecidableEq, Repr, Inhabited

/-- LPATH (R44): repeated accumulation or bit packing. -/
inductive Path where
  | acc | pack
deriving DecidableEq, Repr, Inhabited

/-- STATE, the engine state register (R28), in the order of its encoding 0..7. -/
inductive Stage where
  | idle | accRun | fill | emit | done | error | flushErr | drain
deriving DecidableEq, Repr, Inhabited

/-- A token on IN (R10, R84). -/
inductive InToken where
  | byte (b : Byte)
  | eos
deriving DecidableEq, Repr, Inhabited

/-- A token on OUT (R10, R85). -/
inductive OutToken where
  | byte (b : Byte)
  | endOk
  | endErr
deriving DecidableEq, Repr, Inhabited

/-- One register-bus access (20_memory.md R60, R62; 00_scope.md R9 `MemRead(addr, n)` and
`MemWrite(addr, n, v)`): its direction, its byte count n, its 12-bit offset and its data. A read's data is
not looked at. -/
structure BusAccess where
  write : Bool
  bytes : Nat
  off   : BitVec 12
  data  : Word
deriving DecidableEq, Repr, Inhabited

/-- One constructor per row of spec/opcode_table.json. The fields of the DSEL8 rows are the selector bits the
row's pattern leaves as x (R88); the meanings read the latches, not these fields. -/
inductive Instr where
  -- CMD32
  | nop
  | build
  | start
  | illegal (op : BitVec 4) (rsv : BitVec 28)
  -- IN9
  | inByte (b : Byte)
  | inEnd (ignored : Byte)
  -- OUT10
  | outByte (b : Byte)
  | outEndOk
  | outEndErr
  -- DSEL8
  | accEncByte (codec : Codec)
  | accDecByte (codec : Codec)
  | accEnd (dir : Dir) (codec : Codec)
  | fillByte (dir : Dir) (codec : Codec)
  | fillEnd (dir : Dir) (codec : Codec)
  | emitByte (dir : Dir) (path : Path) (codec : Codec)
  | emitEnd (dir : Dir) (path : Path) (codec : Codec)
  | emitRefill (dir : Dir) (path : Path) (codec : Codec)
  | flushErr (dir : Dir) (path : Path) (codec : Codec)
  | drainByte (dir : Dir) (path : Path) (codec : Codec)
  | drainEnd (dir : Dir) (path : Path) (codec : Codec)
  -- BUS32
  | rdId
  | wrConfig (v : Word)
  | rdConfig
  | wrWincfg (v : Word)
  | rdWincfg
  | wrCmd (w : Word)
  | rdCmd
  | rdStatus
  | rdErrpos
  | rdIncnt
  | rdOutcnt
  | wrAlpha (j : BitVec 6) (v : Word)
  | rdAlpha (j : BitVec 6)
  | rdDtab (c : BitVec 7)
  | rdDtabHi (c : BitVec 7)
  | reservedAccess (a : BusAccess)
deriving DecidableEq, Repr

/-- A word the host presents: a command word (R81), an IN token word (R84), an OUT token word it accepts and
asserts (R85, R91 `pop`), or a register access (R91 `wr`, `rd`). -/
inductive HostWord where
  | cmd (w : BitVec 32)
  | push (w : BitVec 9)
  | pop (w : BitVec 10)
  | bus (a : BusAccess)
deriving DecidableEq, Repr

/-- What selects an engine operation: DSEL and the two conditions OQ ≠ [] and EOSEEN (R87). -/
structure Selector where
  dsel       : BitVec 8
  oqNonEmpty : Bool
  eoseen     : Bool
deriving DecidableEq, Repr

/-- What one instruction is read from: a host word, or the engine's own selector, which the host never
writes (R80, R87). -/
inductive FetchWord where
  | host (h : HostWord)
  | engine (sel : Selector)
deriving DecidableEq, Repr

/-- What a host program may wait for: a value of STATE (R91 `wait S`), every offered token taken
(R91 `push`: "wait until taken"), every standing acceptance used (R91 `pop`). -/
inductive WaitFor where
  | stage (st : Stage)
  | taken
  | delivered
deriving DecidableEq, Repr

/-- One turn of the agenda: who moves next, and with what (00_scope.md R13, 20_memory.md R68, R91). -/
inductive Turn where
  | word (h : HostWord)      -- the host presents a word
  | engine                   -- the engine gets the chance to make one step
  | accept                   -- the consumer of OUT will accept one more token, whichever it is (R61)
  | withdraw                 -- the host takes back the tokens it has offered (70_reset_and_hazards.md R236)
  | check (v : Word)         -- `rd OFF = V`: assert the value of the last register read (R91)
  | wait (w : WaitFor)       -- the host waits; engine steps run meanwhile (R91)
  | poll (st : Stage)        -- `poll S` (R92)
  | reset                    -- the reset input (R230)
deriving DecidableEq, Repr

end Sys2Proof
end

