-- ==== Sys2Proof/WellFormed.lean ====
section
/-! DEFINITION. The checks an instruction's operands must pass to be what a word of the machine decodes to
(30_encoding.md R83; 20_memory.md R62, R63; 10_state.md R22). -/

namespace Sys2Proof

/-- R82, R83: the words that are NOP, BUILD or START are not illegal words. -/
def illegalWordOk (op : BitVec 4) (rsv : BitVec 28) : Bool :=
  !(rsv == 0#28 && (op == 0#4 || op == 1#4 || op == 2#4))

/-- R62: a 32-bit access at an offset that is a multiple of 4. -/
def BusAccess.proper (a : BusAccess) : Bool :=
  a.bytes == 4 && a.off.toNat % 4 == 0

/-- R22: the offsets of the registers a read reaches: ID to OUTCNT, the ALPHA window, the DTAB window. -/
def readableOffset (off : Nat) : Bool :=
  off < 0x020 || (0x100 ≤ off && off < 0x600)

/-- R22, R63: the offsets whose writes are not ignored: CONFIG, WINCFG, CMD, the ALPHA window. -/
def writableOffset (off : Nat) : Bool :=
  off == 0x004 || off == 0x008 || off == 0x00C || (0x100 ≤ off && off < 0x200)

/-- The accesses of the table's row RESERVED_ACCESS (R62, R63): every access no other row matches. -/
def BusAccess.reserved (a : BusAccess) : Bool :=
  !a.proper || !(if a.write then writableOffset a.off.toNat else readableOffset a.off.toNat)

/-- The instructions some word decodes to. -/
def Instr.wellFormed : Instr → Bool
  | .illegal op rsv => illegalWordOk op rsv
  | .reservedAccess a => a.reserved
  | .nop => true
  | .build => true
  | .start => true
  | .inByte _ => true
  | .inEnd _ => true
  | .outByte _ => true
  | .outEndOk => true
  | .outEndErr => true
  | .accEncByte _ => true
  | .accDecByte _ => true
  | .accEnd _ _ => true
  | .fillByte _ _ => true
  | .fillEnd _ _ => true
  | .emitByte _ _ _ => true
  | .emitEnd _ _ _ => true
  | .emitRefill _ _ _ => true
  | .flushErr _ _ _ => true
  | .drainByte _ _ _ => true
  | .drainEnd _ _ _ => true
  | .rdId => true
  | .wrConfig _ => true
  | .rdConfig => true
  | .wrWincfg _ => true
  | .rdWincfg => true
  | .wrCmd _ => true
  | .rdCmd => true
  | .rdStatus => true
  | .rdErrpos => true
  | .rdIncnt => true
  | .rdOutcnt => true
  | .wrAlpha _ _ => true
  | .rdAlpha _ => true
  | .rdDtab _ => true
  | .rdDtabHi _ => true

end Sys2Proof
end

