-- ==== Sys2Proof/Decode.lean ====
section
/-! DEFINITION. The decoder of the five word formats of BXC (30_encoding.md R80 to R90) and, after it, the
encoder. Decoding is total: every word gives an instruction or a rejection by name. -/

namespace Sys2Proof

/-- Why a word is no instruction. -/
inductive Reject where
  /-- An OUT word the engine never produces (R85): ERRF = 1 with EOS = 0, or an End token whose DATA is not 0. -/
  | outWordNeverProduced (w : BitVec 10)
  /-- STATE is IDLE, DONE or ERROR: no engine operation (R88, 43_stream.md R177). -/
  | noEngineStep
  /-- A selector R88 says never occurs: ACC_RUN with PATH = 1, FILL with PATH = 0, or TOK = 1 in a state
  whose step takes no token. -/
  | unreachableSelector
deriving DecidableEq, Repr

/-! ### Field codes -/

/-- CONFIG.CODEC's code (10_state.md R23). -/
def codecBits : Codec → BitVec 2
  | .base64 => 0
  | .base58 => 1
  | .generic => 2
  | .reserved => 3

/-- The codec a 2-bit field names (R23). -/
def codecOfBits (v : BitVec 2) : Codec :=
  if v = 0 then .base64 else if v = 1 then .base58 else if v = 2 then .generic else .reserved

/-- CONFIG.DIR's code: 0 ENCODE, 1 DECODE (R23). -/
def dirBit : Dir → Bool
  | .encode => false
  | .decode => true

/-- The direction a DIR bit names (R23). -/
def dirOfBit (b : Bool) : Dir := if b then .decode else .encode

/-- DSEL's PATH bit: 1 for PACK, 0 for ACC (R87). -/
def pathBit : Path → Bool
  | .acc => false
  | .pack => true

/-- The path a PATH bit names (R87). -/
def pathOfBit (b : Bool) : Path := if b then .pack else .acc

/-- STATE's 3-bit code (10_state.md R28). -/
def stageBits : Stage → BitVec 3
  | .idle => 0
  | .accRun => 1
  | .fill => 2
  | .emit => 3
  | .done => 4
  | .error => 5
  | .flushErr => 6
  | .drain => 7

/-- The engine state a 3-bit code names (R28). -/
def stageOfBits (v : BitVec 3) : Stage :=
  if v = 0 then .idle else if v = 1 then .accRun else if v = 2 then .fill else if v = 3 then .emit
  else if v = 4 then .done else if v = 5 then .error else if v = 6 then .flushErr else .drain

/-! ### Command words (R81 to R83) -/

/-- R82, R83: NOP, BUILD and START are exact words; every other word is illegal. -/
def decodeCommand (w : BitVec 32) : Instr :=
  if w = 0x00000000#32 then .nop
  else if w = 0x00000001#32 then .build
  else if w = 0x00000002#32 then .start
  else .illegal (w.extractLsb' 0 4) (w.extractLsb' 4 28)

/-! ### Port words (R84, R85) -/

/-- R84: bit 8 is EOS; an End token's DATA is ignored by the block, and kept here as the operand it is. -/
def decodeInWord (w : BitVec 9) : Instr :=
  if w.getLsbD 8 then .inEnd (w.extractLsb' 0 8) else .inByte (w.extractLsb' 0 8)

/-- R85: the three forms of an OUT word; the engine produces no other. -/
def decodeOutWord (w : BitVec 10) : Except Reject Instr :=
  if w.extractLsb' 8 2 = 0#2 then .ok (.outByte (w.extractLsb' 0 8))
  else if w = 0x100#10 then .ok .outEndOk
  else if w = 0x300#10 then .ok .outEndErr
  else .error (.outWordNeverProduced w)

/-! ### Register accesses (10_state.md R22; 20_memory.md R62, R63) -/

/-- The rows of a 32-bit aligned read, by the table's match and mask. -/
def decodeRead (a : BusAccess) : Instr :=
  if a.off = 0x000#12 then .rdId
  else if a.off = 0x004#12 then .rdConfig
  else if a.off = 0x008#12 then .rdWincfg
  else if a.off = 0x00C#12 then .rdCmd
  else if a.off = 0x010#12 then .rdStatus
  else if a.off = 0x014#12 then .rdErrpos
  else if a.off = 0x018#12 then .rdIncnt
  else if a.off = 0x01C#12 then .rdOutcnt
  else if a.off &&& 0xF03#12 = 0x100#12 then .rdAlpha (a.off.extractLsb' 2 6)
  else if a.off &&& 0xE03#12 = 0x200#12 then .rdDtab (a.off.extractLsb' 2 7)
  else if a.off &&& 0xE03#12 = 0x400#12 then .rdDtabHi (a.off.extractLsb' 2 7)
  else .reservedAccess a

/-- The rows of a 32-bit aligned write, by the table's match and mask. -/
def decodeWrite (a : BusAccess) : Instr :=
  if a.off = 0x004#12 then .wrConfig a.data
  else if a.off = 0x008#12 then .wrWincfg a.data
  else if a.off = 0x00C#12 then .wrCmd a.data
  else if a.off &&& 0xF03#12 = 0x100#12 then .wrAlpha (a.off.extractLsb' 2 6) a.data
  else .reservedAccess a

/-- R62: only 32-bit accesses at offsets that are multiples of 4 reach a register. -/
def decodeBus (a : BusAccess) : Instr :=
  if a.bytes = 4 ∧ a.off.extractLsb' 0 2 = 0#2 then
    if a.write then decodeWrite a else decodeRead a
  else .reservedAccess a

/-! ### The engine's selector (R87, R88) -/

/-- DSEL: STATE [7:5], TOK [4], DIR [3], PATH [2], CODEC [1:0] (R87). -/
def dselOf (st : Stage) (tok : Bool) (dir : Dir) (path : Path) (codec : Codec) : BitVec 8 :=
  stageBits st ++ BitVec.ofBool tok ++ BitVec.ofBool (dirBit dir) ++ BitVec.ofBool (pathBit path)
    ++ codecBits codec

/-- R88: the engine operation a selector selects, with the two conditions OQ = [] and EOSEEN. -/
def decodeSelector (sel : Selector) : Except Reject Instr :=
  let dir := dirOfBit (sel.dsel.getLsbD 3)
  let path := pathOfBit (sel.dsel.getLsbD 2)
  let codec := codecOfBits (sel.dsel.extractLsb' 0 2)
  match stageOfBits (sel.dsel.extractLsb' 5 3), sel.dsel.getLsbD 4, path with
  | .accRun, false, .acc => .ok (match dir with | .encode => .accEncByte codec | .decode => .accDecByte codec)
  | .accRun, true, .acc => .ok (.accEnd dir codec)
  | .accRun, _, .pack => .error .unreachableSelector
  | .fill, false, .pack => .ok (.fillByte dir codec)
  | .fill, true, .pack => .ok (.fillEnd dir codec)
  | .fill, _, .acc => .error .unreachableSelector
  | .emit, false, _ =>
    .ok (if sel.oqNonEmpty then .emitByte dir path codec
      else if sel.eoseen then .emitEnd dir path codec
      else .emitRefill dir path codec)
  | .emit, true, _ => .error .unreachableSelector
  | .flushErr, false, _ => .ok (.flushErr dir path codec)
  | .flushErr, true, _ => .error .unreachableSelector
  | .drain, false, _ => .ok (.drainByte dir path codec)
  | .drain, true, _ => .ok (.drainEnd dir path codec)
  | .idle, _, _ => .error .noEngineStep
  | .done, _, _ => .error .noEngineStep
  | .error, _, _ => .error .noEngineStep

/-! ### The whole decoder -/

/-- A host word's instruction (R90). -/
def decodeHost : HostWord → Except Reject Instr
  | .cmd w => .ok (decodeCommand w)
  | .push w => .ok (decodeInWord w)
  | .pop w => decodeOutWord w
  | .bus a => .ok (decodeBus a)

/-- The instruction a fetched word stands for, or why there is none (R90). -/
def decode : FetchWord → Except Reject Instr
  | .host h => decodeHost h
  | .engine sel => decodeSelector sel

/-! ### The encoder, from the same tables -/

/-- The OUT word of a token (R85). -/
def outWord : OutToken → BitVec 10
  | .byte b => 0#2 ++ b
  | .endOk => 0x100#10
  | .endErr => 0x300#10

/-- A 32-bit register read at an offset; the data lines are not looked at. -/
def readWord (off : BitVec 12) : FetchWord :=
  .host (.bus { write := false, bytes := 4, off := off, data := 0 })

/-- A 32-bit register write (R91 `wr OFF, V`). -/
def writeWord (off : BitVec 12) (v : Word) : FetchWord :=
  .host (.bus { write := true, bytes := 4, off := off, data := v })

/-- The selector with the given conditions (R87). -/
def selectorWord (st : Stage) (tok : Bool) (dir : Dir) (path : Path) (codec : Codec)
    (oqNonEmpty eoseen : Bool) : FetchWord :=
  .engine { dsel := dselOf st tok dir path codec, oqNonEmpty := oqNonEmpty, eoseen := eoseen }

/-- The word of an instruction (R81 to R91). -/
def encode : Instr → FetchWord
  | .nop => .host (.cmd 0x00000000#32)
  | .build => .host (.cmd 0x00000001#32)
  | .start => .host (.cmd 0x00000002#32)
  | .illegal op rsv => .host (.cmd (rsv ++ op))
  | .inByte b => .host (.push (0#1 ++ b))
  | .inEnd d => .host (.push (1#1 ++ d))
  | .outByte b => .host (.pop (outWord (.byte b)))
  | .outEndOk => .host (.pop (outWord .endOk))
  | .outEndErr => .host (.pop (outWord .endErr))
  | .accEncByte c => selectorWord .accRun false .encode .acc c false false
  | .accDecByte c => selectorWord .accRun false .decode .acc c false false
  | .accEnd d c => selectorWord .accRun true d .acc c false false
  | .fillByte d c => selectorWord .fill false d .pack c false false
  | .fillEnd d c => selectorWord .fill true d .pack c false false
  | .emitByte d p c => selectorWord .emit false d p c true false
  | .emitEnd d p c => selectorWord .emit false d p c false true
  | .emitRefill d p c => selectorWord .emit false d p c false false
  | .flushErr d p c => selectorWord .flushErr false d p c false false
  | .drainByte d p c => selectorWord .drain false d p c false false
  | .drainEnd d p c => selectorWord .drain true d p c false false
  | .rdId => readWord 0x000#12
  | .wrConfig v => writeWord 0x004#12 v
  | .rdConfig => readWord 0x004#12
  | .wrWincfg v => writeWord 0x008#12 v
  | .rdWincfg => readWord 0x008#12
  | .wrCmd w => writeWord 0x00C#12 w
  | .rdCmd => readWord 0x00C#12
  | .rdStatus => readWord 0x010#12
  | .rdErrpos => readWord 0x014#12
  | .rdIncnt => readWord 0x018#12
  | .rdOutcnt => readWord 0x01C#12
  | .wrAlpha j v => writeWord (0x1#4 ++ j ++ 0#2) v
  | .rdAlpha j => readWord (0x1#4 ++ j ++ 0#2)
  | .rdDtab c => readWord (0x1#3 ++ c ++ 0#2)
  | .rdDtabHi c => readWord (0x2#3 ++ c ++ 0#2)
  | .reservedAccess a => .host (.bus a)

/-! ### Table words -/

/-- The fetched word a numbered table word stands for (assumption log 2). The formats of the table are told
apart by their width: 8 bits a DSEL, 9 an IN word, 10 an OUT word, 12 or 16 a register offset, 32 a command
word. A register access takes its direction from bit 12 (0 a read), its byte count is 4, and its data lines
are bits 47..16; the selector's two conditions are the bits 8 and 9 above DSEL. Bits above `nbits` are 0. -/
def tableFetchWord (nbits w : Nat) : Option FetchWord :=
  if 2 ^ nbits ≤ w then none
  else if nbits = 8 then
    some (.engine { dsel := BitVec.ofNat 8 w, oqNonEmpty := false, eoseen := false })
  else if nbits = 9 then some (.host (.push (BitVec.ofNat 9 w)))
  else if nbits = 10 then some (.host (.pop (BitVec.ofNat 10 w)))
  else if nbits = 32 then some (.host (.cmd (BitVec.ofNat 32 w)))
  else if (nbits = 12 ∨ nbits = 16 ∨ nbits = 48) ∧ w / 2 ^ 13 % 8 = 0 then
    some (.host (.bus
      { write := w / 2 ^ 12 % 2 == 1, bytes := 4, off := BitVec.ofNat 12 w, data := BitVec.ofNat 32 (w / 2 ^ 16) }))
  else none

/-- The instruction the decoder reads from a table word. -/
def decodeTableWord (nbits w : Nat) : Option Instr :=
  match tableFetchWord nbits w with
  | none => none
  | some f =>
    match decode f with
    | .ok i => some i
    | .error _ => none

end Sys2Proof
end

