-- ==== Sys2Proof/Config.lean ====
section
/-! DEFINITION. What an implementation of BXC fixes (00_scope.md R7), the latches START fills (10_state.md
R44), and the free values: opaque constants, each applied to a counter of State, for every value the spec
leaves unspecified while the machine goes on (93_implementation_defined.md part 2). -/

namespace Sys2Proof

/-- The OPEN implementation parameters of R7. "A model takes each OPEN parameter as an argument": State
carries them, no step changes them, and a statement about every state holds for every value. -/
structure Params where
  digitCap : Nat   -- DIGIT_CAP ≥ 1 (R7, R45)
  wbufCap  : Nat   -- WBUF_CAP ≥ 2048 (R7, R48)
deriving DecidableEq, Repr, Inhabited

/-- The bounds R7 puts on the parameters. -/
abbrev Params.legal (p : Params) : Prop := 1 ≤ p.digitCap ∧ 2048 ≤ p.wbufCap

/-- The latched configuration of R44: LCODEC, LDIR, LR, LPATH, LK, LNB, LNC, LG, LW. The spec gives the last
four no width; they are counts (assumption log 13). -/
structure Latches where
  codec : Codec
  dir   : Dir
  radix : BitVec 9
  path  : Path
  k     : BitVec 3
  nb    : Nat
  nc    : Nat
  g     : Nat
  w     : Nat
deriving DecidableEq, Repr, Inhabited

namespace Config

/-- ALPHA's cell `a` after the reset event that the counter numbers (R54; assumption log 16). -/
opaque freeAlpha : Nat → Nat → Byte

/-- TABC's entry `c` after a reset event, none being the sentinel -1 (R54; assumption log 16). -/
opaque freeEntry : Nat → Nat → Option Byte

/-- TRADIX after a reset event (R54; assumption log 16). -/
opaque freeTradix : Nat → BitVec 9

/-- The latches after a reset event (R54; assumption log 16). -/
opaque freeLatches : Nat → Latches

/-- D after an ACC fault, before the bound DIGIT_CAP is applied (R123, R214; assumption log 17). -/
opaque freeDigits : Nat → List Byte

/-- CARRY between ACC steps (R46; assumption log 18). -/
opaque freeCarry : Nat → BitVec 16

/-- PACC between group operations (R47; assumption log 18). -/
opaque freePacc : Nat → BitVec 56

/-- What a fixed alphabet would give for an index it does not have: no rule reads it (assumption log 20). -/
opaque freeRom : Nat → Byte

end Config

end Sys2Proof
end

