-- ==== Sys2Proof/Machine/State.lean ====
section
/-! DEFINITION. The state of BXC as plain data: every piece of 10_state.md, the OPEN parameters of
00_scope.md R7, and the host agent's side of the ports (20_memory.md R61, R68). Also the reasons a step of the
model can stop, and the state after reset (10_state.md R54). -/

namespace Sys2Proof.Machine

/-- Why the machine stops with a fault. BXC's own faults (60_exceptions.md R210) are next states, not these. -/
inductive Fault where
  /-- Raised by `step` when the engine's selector is one that 30_encoding.md R88 says never occurs (ACC_RUN
  with PATH = 1, FILL with PATH = 0), so the spec gives it no operation. Safe: the machine stops where the
  spec says it never is (assumption log 6). -/
  | unreachableSelector
deriving DecidableEq, Repr

/-- Why there is no meaning for what was fetched. -/
inductive Refusal where
  /-- Raised by `exec` for an instruction that has no meaning yet. Safe. -/
  | notModelled (mnemonic : String)
  /-- Raised by `step` when a host program asserts, by `pop`, an OUT word that 30_encoding.md R85 says the
  engine never produces. Safe: such an assertion can never hold (assumption log 7). -/
  | outWordNeverProduced (w : BitVec 10)
deriving DecidableEq, Repr

/-- CONFIG's stored fields (10_state.md R23); its reserved bits have no storage. -/
structure ConfigReg where
  radix : BitVec 9
  codec : Codec
  dir   : Dir
deriving DecidableEq, Repr, Inhabited

/-- A byte memory: cells with strictly rising addresses. ALPHA (R35) lists no cell that equals what an
unlisted address reads as; TABC (R37) lists its valid entries. -/
abbrev Memory := List Host.Cell

/-- The state of the block and of the host agent's side of its ports. -/
structure State where
  /-- DIGIT_CAP and WBUF_CAP (R7). -/
  params : Params
  /-- CONFIG (R23, R24). -/
  config : ConfigReg
  /-- WINCFG.WIN_GROUPS (R25). -/
  winGroups : BitVec 16
  /-- STATE, the engine state register (R28). -/
  stage : Stage
  /-- TABLE_VALID (R38). -/
  tableValid : Bool
  /-- WIGN (R30). -/
  wign : Bool
  /-- ERRCODE (R31). -/
  errcode : BitVec 4
  /-- ERRPOS (R32). -/
  errpos : Word
  /-- INCNT (R33). -/
  incnt : Word
  /-- OUTCNT (R34). -/
  outcnt : Word
  /-- ALPHA (R35, R36). -/
  alpha : Memory
  /-- TABC: key the character, value its digit; an unlisted character's entry is -1 (R37). -/
  tabc : Memory
  /-- TRADIX (R38). -/
  tradix : BitVec 9
  /-- The latched configuration (R44). -/
  lat : Latches
  /-- D, the digit buffer, least significant cell first (R45). -/
  d : List Byte
  /-- CARRY (R46). -/
  carry : BitVec 16
  /-- PACC (R47). -/
  pacc : BitVec 56
  /-- WB, the window buffer (R48). -/
  wb : List Byte
  /-- WBASE (R48). -/
  wbase : Word
  /-- OQ, the output queue, next byte first (R49). -/
  oq : List Byte
  /-- EOSEEN (R50). -/
  eoseen : Bool
  /-- Host side: the tokens offered on IN and not yet taken, oldest first (R53, R61, R70). -/
  inOffer : List InToken
  /-- Host side: the standing acceptances on OUT, oldest first, each with the token it asserts, if any
  (R61, R91). -/
  outAccept : List (Option OutToken)
  /-- Host side: the tokens delivered on OUT, oldest first (R14, R70). -/
  outTokens : List OutToken
  /-- Host side: the value of the last register read (R14). -/
  busData : Word
  /-- Host side: the last register access got a bus error (R62). -/
  busError : Bool
  /-- Host side: an assertion of a host program did not hold (R91). -/
  assertFailed : Bool
  /-- Who moves next (R13, R68). -/
  agenda : List Turn
  /-- The model's own: how many free values have been drawn. -/
  draws : Nat
deriving DecidableEq, Repr

/-- The machine right after reset (R54, 70_reset_and_hazards.md R230). The values R54 leaves unspecified
(ALPHA, TABC, TRADIX, the latches, CARRY, PACC) are named in assumption log 11, 12 and 13, the parameters
in 15, the host side's in 14. -/
def State.reset : State where
  params := { digitCap := 4096, wbufCap := 2048 }
  config := { radix := 0, codec := .base64, dir := .encode }
  winGroups := 256
  stage := .idle
  tableValid := false
  wign := false
  errcode := 0
  errpos := 0
  incnt := 0
  outcnt := 0
  alpha := []
  tabc := []
  tradix := 0
  lat := { codec := .base64, dir := .encode, radix := 0, path := .acc, k := 0, nb := 0, nc := 0, g := 0, w := 0 }
  d := []
  carry := 0
  pacc := 0
  wb := []
  wbase := 0
  oq := []
  eoseen := false
  inOffer := []
  outAccept := []
  outTokens := []
  busData := 0
  busError := false
  assertFailed := false
  agenda := []
  draws := 0

end Sys2Proof.Machine
end

