-- ==== Sys2Proof/Machine/Memory.lean ====
section
/-! DEFINITION. The canonical cell list behind ALPHA and TABC (10_state.md R35, R37): addresses strictly
rising, and in ALPHA no cell equal to what an unlisted cell reads as, so that equal memories are equal data. -/

namespace Sys2Proof.Machine

/-- What an ALPHA cell that nothing has written since reset reads as. R35 gives no value; 0 is the model's
(DESIGN CHOICE, unsafe: assumption log 11). -/
def unlistedAlpha : Byte := 0

/-- The listed value at an address. -/
def Memory.find : Memory → Nat → Option Byte
  | [], _ => none
  | (b, v) :: m, a => if a = b then some v else Memory.find m a

/-- List a value at an address, in place of an older one. -/
def Memory.insert : Memory → Nat → Byte → Memory
  | [], a, v => [(a, v)]
  | (b, w) :: m, a, v =>
    if a < b then (a, v) :: (b, w) :: m
    else if a = b then (a, v) :: m
    else (b, w) :: Memory.insert m a v

/-- Take an address off the list. -/
def Memory.erase : Memory → Nat → Memory
  | [], _ => []
  | (b, w) :: m, a => if a = b then m else (b, w) :: Memory.erase m a

/-- Read one ALPHA cell. -/
def Memory.read (m : Memory) (a : Nat) : Byte := (m.find a).getD unlistedAlpha

/-- Write one ALPHA cell, keeping the canonical form: the value an unlisted cell reads as is not listed. -/
def Memory.write (m : Memory) (a : Nat) (v : Byte) : Memory :=
  if v = unlistedAlpha then m.erase a else m.insert a v

/-- Every address of the list is above `a`, and they rise strictly. -/
def Memory.risingFrom (a : Nat) : Memory → Bool
  | [] => true
  | (b, _) :: m => decide (a < b) && Memory.risingFrom b m

/-- Addresses rise strictly. -/
def Memory.rising : Memory → Bool
  | [] => true
  | (b, _) :: m => Memory.risingFrom b m

/-- TABC's form: rising, and every key a byte value (R37). -/
def Memory.tableWf (m : Memory) : Bool := m.rising && m.all (fun c => decide (c.1 < 256))

/-- The canonical form of ALPHA: rising, 256 cells (R35), no cell that equals what an unlisted one reads as. -/
def Memory.wf (m : Memory) : Bool := m.tableWf && m.all (fun c => decide (c.2 ≠ unlistedAlpha))

end Sys2Proof.Machine
end

