-- ==== Sys2Proof/Machine/Operands.lean ====
section
/-! DEFINITION. Operand forms: register words and their fields (10_state.md R21 to R37), the fixed alphabets
and tables (R39 to R42), the active pair (R43), path selection and group geometry (42_bitpack.md R140, R141). -/

namespace Sys2Proof.Machine

/-! ### Register words -/

/-- ID's value at all times (R21). -/
def idValue : Word := 0x42580007#32

/-- CONFIG as read: RADIX [8:0], CODEC [13:12], DIR [16], reserved bits 0 (R23, R24). -/
def configWord (c : ConfigReg) : Word :=
  0#15 ++ BitVec.ofBool (dirBit c.dir) ++ 0#2 ++ codecBits c.codec ++ 0#3 ++ c.radix

/-- The fields a CONFIG write stores (R23, R24). -/
def configOfWord (v : Word) : ConfigReg :=
  { radix := v.extractLsb' 0 9, codec := codecOfBits (v.extractLsb' 12 2), dir := dirOfBit (v.getLsbD 16) }

/-- WINCFG as read: WIN_GROUPS [15:0], reserved bits 0 (R25). -/
def wincfgWord (n : BitVec 16) : Word := 0#16 ++ n

/-- The field a WINCFG write stores (R25). -/
def wincfgOfWord (v : Word) : BitVec 16 := v.extractLsb' 0 16

/-- Lane m of a word: bits [8m+7:8m] (R35, R67). -/
def lane (v : Word) (m : Nat) : Byte := v.extractLsb' (8 * m) 8

/-- ALPHA word j: the lowest lane holds the lowest index (R35, R36). -/
def alphaWord (alpha : Memory) (j : Nat) : Word :=
  alpha.read (4 * j + 3) ++ alpha.read (4 * j + 2) ++ alpha.read (4 * j + 1) ++ alpha.read (4 * j)

/-- Store the four lanes of ALPHA word j (R36). -/
def storeAlphaWord (alpha : Memory) (j : Nat) (v : Word) : Memory :=
  (((alpha.write (4 * j) (lane v 0)).write (4 * j + 1) (lane v 1)).write (4 * j + 2) (lane v 2)).write
    (4 * j + 3) (lane v 3)

/-- TABC[c] as a signed number: -1 or 0..255 (R37). -/
def tableEntry (tabc : Memory) (c : Nat) : Int :=
  match tabc.find c with
  | none => -1
  | some v => v.toNat

/-- A DTAB word: sext_32(TABC[c]) (R37). -/
def dtabWord (tabc : Memory) (c : Nat) : Word := BitVec.ofInt 32 (tableEntry tabc c)

/-! ### Alphabets and tables -/

/-- PAD, '=' (00_scope.md R12). -/
def padByte : Byte := 0x3D#8

/-- ROM64 (R39): 'A'..'Z', 'a'..'z', '0'..'9', '+', '/'. -/
def rom64 (i : Nat) : Byte :=
  if i < 26 then BitVec.ofNat 8 (0x41 + i)
  else if i < 52 then BitVec.ofNat 8 (0x61 + (i - 26))
  else if i < 62 then BitVec.ofNat 8 (0x30 + (i - 52))
  else if i = 62 then 0x2B#8
  else if i = 63 then 0x2F#8
  else Config.freeRom i

/-- ROM58 (R41): the digit, upper-case and lower-case ranges with '0', 'O', 'I' and 'l' left out. -/
def rom58 (i : Nat) : Byte :=
  if i < 9 then BitVec.ofNat 8 (0x31 + i)
  else if i < 17 then BitVec.ofNat 8 (0x41 + (i - 9))
  else if i < 22 then BitVec.ofNat 8 (0x4A + (i - 17))
  else if i < 33 then BitVec.ofNat 8 (0x50 + (i - 22))
  else if i < 44 then BitVec.ofNat 8 (0x61 + (i - 33))
  else if i < 58 then BitVec.ofNat 8 (0x6D + (i - 44))
  else Config.freeRom i

/-- The table of an alphabet of r symbols (R105): the digit whose symbol c is, none being the sentinel -1. -/
def digitIn (rom : Nat → Byte) (r : Nat) (c : Byte) : Option Nat :=
  (List.range r).find? (fun i => rom i == c)

/-- TAB64 (R40). -/
def tab64 (c : Byte) : Option Nat := digitIn rom64 64 c

/-- TAB58 (R42). -/
def tab58 (c : Byte) : Option Nat := digitIn rom58 58 c

/-- AALPHA, the active alphabet (R43). LCODEC is never 3 in a conversion (R107). -/
def activeAlphabet (s : State) : Nat → Byte :=
  match s.lat.codec with
  | .base64 => rom64
  | .base58 => rom58
  | .generic => s.alpha.read
  | .reserved => s.alpha.read

/-- ATAB, the active table (R43). -/
def activeTable (s : State) : Byte → Option Nat :=
  match s.lat.codec with
  | .base64 => tab64
  | .base58 => tab58
  | .generic => fun c => (s.tabc.find c.toNat).map BitVec.toNat
  | .reserved => fun c => (s.tabc.find c.toNat).map BitVec.toNat

/-! ### Path selection and group geometry -/

/-- The geometry of a PACK radix (R141): k, NB, NC. -/
structure Geometry where
  k  : BitVec 3
  nb : Nat
  nc : Nat
deriving DecidableEq, Repr

/-- R140, R141: the PACK radices 2^k, 1 ≤ k ≤ 7, with their geometry; none for an ACC radix. -/
def geometry (r : BitVec 9) : Option Geometry :=
  if r = 2 then some ⟨1, 1, 8⟩
  else if r = 4 then some ⟨2, 1, 4⟩
  else if r = 8 then some ⟨3, 3, 8⟩
  else if r = 16 then some ⟨4, 1, 2⟩
  else if r = 32 then some ⟨5, 5, 8⟩
  else if r = 64 then some ⟨6, 3, 4⟩
  else if r = 128 then some ⟨7, 7, 8⟩
  else none

/-- The radix START uses (R107): 64, 58 or TRADIX. -/
def startRadix (codec : Codec) (tradix : BitVec 9) : BitVec 9 :=
  match codec with
  | .base64 => 64
  | .base58 => 58
  | .generic => tradix
  | .reserved => tradix

/-- LG: the group length on the input side (R44). -/
def groupLength (dir : Dir) (geo : Geometry) : Nat :=
  match dir with
  | .encode => geo.nb
  | .decode => geo.nc

end Sys2Proof.Machine
end

