-- ==== Sys2Proof/Machine/Accumulate.lean ====
section
/-! DEFINITION. The ACC unit's datapath (41_accumulate.md R120 to R123): multiply the number in D by one base
and add, digit by digit in another. CARRY is computed as a natural number; R127 shows that it fits its 16 bits. -/

namespace Sys2Proof.Machine

/-- The iterations of R120 and R121 with i < |D|: CARRY + D[i]·mul, its remainder by `base` to D[i], its
quotient on. The rewritten cells and the CARRY that is left. -/
def accCells (mul base : Nat) : List Byte → Nat → List Byte × Nat
  | [], carry => ([], carry)
  | x :: xs, carry =>
    let t := carry + x.toNat * mul
    let rest := accCells mul base xs (t / base)
    (BitVec.ofNat 8 (t % base) :: rest.1, rest.2)

/-- The iterations with i = |D|: append CARRY mod base until CARRY is 0. -/
def accAppend (base : Nat) : Nat → Nat → List Byte
  | 0, _ => []
  | fuel + 1, carry =>
    if carry = 0 then [] else BitVec.ofNat 8 (carry % base) :: accAppend base fuel (carry / base)

/-- How many appending iterations the loop is given: CARRY has 16 bits, so 16 divisions by a base of 2 or more
use it up (R127, R129: 8 are enough). -/
def accFuel : Nat := 16

/-- One whole step without the capacity check: D after it. -/
def accDigits (mul base : Nat) (d : List Byte) (carry : Nat) : List Byte :=
  (accCells mul base d carry).1 ++ accAppend base accFuel (accCells mul base d carry).2

/-- The step with R123's check: an append with |D| = DIGIT_CAP raises, here none. -/
def accStep (mul base cap : Nat) (d : List Byte) (carry : Nat) : Option (List Byte) :=
  if d.length < (accDigits mul base d carry).length ∧ cap < (accDigits mul base d carry).length then none
  else some (accDigits mul base d carry)

/-- ACC_ENC_STEP (R120): D·256 + c in radix LR. -/
def accEncStep (lr cap : Nat) (d : List Byte) (c : Byte) : Option (List Byte) :=
  accStep 256 lr cap d c.toNat

/-- ACC_DEC_STEP (R121): D·LR + v in base 256. -/
def accDecStep (lr cap : Nat) (d : List Byte) (v : Nat) : Option (List Byte) :=
  accStep lr 256 cap d v

/-- ACC_END's output of an encode (R126): the symbols of D's digits, most significant first. -/
def accEncOutput (alphabet : Nat → Byte) (d : List Byte) : List Byte :=
  d.reverse.map (fun x => alphabet x.toNat)

/-- ACC_END's output of a decode (R126): D's cells, most significant first. -/
def accDecOutput (d : List Byte) : List Byte := d.reverse

end Sys2Proof.Machine
end

