-- ==== Sys2Proof/Machine/Flags.lean ====
section
/-! DEFINITION. The status bits. BXC has no arithmetic flags (10_state.md R52); STATUS is made of functions of
STATE and four stored fields (R27). -/

namespace Sys2Proof.Machine

/-- STATUS.BUSY (R27): STATE is ACC_RUN, FILL, EMIT, FLUSH_ERR or DRAIN. -/
def stageBusy : Stage → Bool
  | .accRun => true
  | .fill => true
  | .emit => true
  | .flushErr => true
  | .drain => true
  | .idle => false
  | .done => false
  | .error => false

/-- STATUS.DONE (R27): STATE is DONE. -/
def stageDone : Stage → Bool
  | .done => true
  | .idle => false
  | .accRun => false
  | .fill => false
  | .emit => false
  | .error => false
  | .flushErr => false
  | .drain => false

/-- STATUS.ERR (R27): STATE is ERROR, FLUSH_ERR or DRAIN. -/
def stageErr : Stage → Bool
  | .error => true
  | .flushErr => true
  | .drain => true
  | .idle => false
  | .accRun => false
  | .fill => false
  | .emit => false
  | .done => false

/-- STATUS.BUSY of a state. -/
def State.busy (s : State) : Bool := stageBusy s.stage

/-- STATUS as read (R27): BUSY [0], DONE [1], ERR [2], TABLE_VALID [3], WIGN [4], ERRCODE [11:8],
STATE [14:12]. -/
def statusWord (s : State) : Word :=
  0#17 ++ stageBits s.stage ++ s.errcode ++ 0#3 ++ BitVec.ofBool s.wign ++ BitVec.ofBool s.tableValid
    ++ BitVec.ofBool (stageErr s.stage) ++ BitVec.ofBool (stageDone s.stage) ++ BitVec.ofBool (stageBusy s.stage)

/-- BXC's fault codes (60_exceptions.md R210). -/
inductive ErrCode where
  | invalidCharacter | invalidRadix | duplicateSymbol | noTable | capacityExceeded | illegalCommand | badConfig
deriving DecidableEq, Repr

/-- ERRCODE's value for a fault (R31, R210). -/
def errCodeBits : ErrCode → BitVec 4
  | .invalidCharacter => 1
  | .invalidRadix => 2
  | .duplicateSymbol => 3
  | .noTable => 4
  | .capacityExceeded => 5
  | .illegalCommand => 6
  | .badConfig => 7

end Sys2Proof.Machine
end

