-- ==== Sys2Proof/Machine/Ops.lean ====
section
/-! DEFINITION. The shared operations on the state: taking a fault (60_exceptions.md R213) and coming back from
one (R216), the two handshake ports (20_memory.md R61), the register bus's answers (R62), the values the spec
leaves unspecified, and reset as an event (70_reset_and_hazards.md R230). -/

namespace Sys2Proof.Machine

/-! ### Faults -/

/-- The two classes of fault (R212). -/
inductive FaultClass where
  | command | engine
deriving DecidableEq, Repr

/-- Where a fault leaves STATE (R213). -/
def faultStage : FaultClass → Stage
  | .command => .error
  | .engine => .flushErr

/-- Fault entry, `raise Fault(code, pos)` (R213): nothing is saved but ERRCODE and ERRPOS. -/
def raiseFault (cls : FaultClass) (code : ErrCode) (pos : Nat) (s : State) : State :=
  { s with errcode := errCodeBits code, errpos := BitVec.ofNat 32 pos, stage := faultStage cls }

/-- The way back from a fault (R216), and what every accepted command other than NOP does first (R101):
WIGN, ERRCODE and ERRPOS are cleared. -/
def acceptCommand (s : State) : State :=
  { s with wign := false, errcode := 0, errpos := 0 }

/-! ### Unspecified values -/

/-- CARRY after an ACC step: not defined (R46; assumption log 18). -/
def loseCarry (s : State) : State :=
  { s with carry := Config.freeCarry s.draws, draws := s.draws + 1 }

/-- PACC after group operations: not defined (R47; assumption log 18). -/
def losePacc (s : State) : State :=
  { s with pacc := Config.freePacc s.draws, draws := s.draws + 1 }

/-- D after an ACC fault: unspecified, at most DIGIT_CAP cells (R45, R123, R214; assumption log 17). -/
def loseDigits (s : State) : State :=
  { s with d := (Config.freeDigits s.draws).take s.params.digitCap, draws := s.draws + 1 }

/-! ### The ports -/

/-- The host offers a token on IN (R61, R70). -/
def offerToken (t : InToken) (s : State) : State :=
  { s with inOffer := s.inOffer ++ [t] }

/-- `In.take()` (R9): the oldest offered token leaves the port. -/
def takeToken (s : State) : State :=
  { s with inOffer := s.inOffer.tail }

/-- The consumer accepts one more token on OUT, asserting which one if the host program says so (R61, R91). -/
def acceptToken (e : Option OutToken) (s : State) : State :=
  { s with outAccept := s.outAccept ++ [e] }

/-- Whether an assertion of `pop` is broken by the token that arrives (R91). -/
def breaks (e : Option OutToken) (t : OutToken) : Bool :=
  match e with
  | none => false
  | some x => x != t

/-- `Out.put(t)` (R9, R61): it happens only when the consumer accepts, otherwise none. -/
def putToken (t : OutToken) (s : State) : Option State :=
  match s.outAccept with
  | [] => none
  | e :: rest =>
    some { s with outAccept := rest, outTokens := s.outTokens ++ [t], assertFailed := s.assertFailed || breaks e t }

/-! ### The register bus -/

/-- A read answers its value (R62, R64). -/
def busRead (v : Word) (s : State) : State := { s with busData := v, busError := false }

/-- A write answers that it was taken. -/
def busWrote (s : State) : State := { s with busError := false }

/-- The bus error of R62: no state of BXC changes, and a read answers 0. -/
def busRefused (write : Bool) (s : State) : State :=
  { s with busData := if write then s.busData else 0, busError := true }

/-- A write while BUSY = 1 is ignored and sets WIGN (R30); otherwise it has its effect. -/
def writeUnlessBusy (effect : State → State) (s : State) : State :=
  if s.busy then { s with wign := true } else effect s

/-! ### Reset as an event -/

/-- ALPHA's 256 cells after a reset event: each an arbitrary value (R35, R54; assumption log 16). -/
def drawAlpha (n : Nat) : Memory :=
  (List.range 256).foldl (fun m a => m.write a (Config.freeAlpha n a)) []

/-- TABC's 256 entries after a reset event: each an arbitrary value (R37, R54; assumption log 16). -/
def drawTable (n : Nat) : Memory :=
  (List.range 256).foldl
    (fun m c => match Config.freeEntry n c with | none => m | some v => m.insert c v) []

/-- The reset event (R230): every piece of state of the block takes its value of R54, the unspecified ones a
free value. The host's side stays: tokens delivered stay delivered, tokens not taken stay with the host
(R231, R237), and no End token is put. CARRY and PACC are drawn with the rest. -/
def resetEvent (s : State) : State :=
  { s with
    config := State.reset.config, winGroups := State.reset.winGroups, stage := .idle
    tableValid := false, wign := false, errcode := 0, errpos := 0, incnt := 0, outcnt := 0
    alpha := drawAlpha s.draws, tabc := drawTable s.draws, tradix := Config.freeTradix s.draws
    lat := Config.freeLatches s.draws
    d := [], carry := Config.freeCarry s.draws, pacc := Config.freePacc s.draws
    wb := [], wbase := 0, oq := [], eoseen := false
    draws := s.draws + 1 }

end Sys2Proof.Machine
end

