-- ==== Sys2Proof/Machine/Commands.lean ====
section
/-! DEFINITION. The host commands of CMD (40_commands.md R100 to R108) and the meanings of the CMD32 rows. -/

namespace Sys2Proof.Machine

/-! ### BUILD (R104, R105) -/

/-- ALPHA[0..r-1]. -/
def symbols (alpha : Memory) (r : Nat) : List Byte := (List.range r).map alpha.read

/-- The smallest index whose symbol equals an earlier one (R105): `seen` are the symbols before index j. -/
def firstDuplicate : List Byte → List Byte → Nat → Option Nat
  | _, [], _ => none
  | seen, c :: cs, j => if c ∈ seen then some j else firstDuplicate (c :: seen) cs (j + 1)

/-- TABC of an alphabet (R105): every entry -1, then each symbol's entry its index, from index i on. -/
def buildTable : List Byte → Nat → Memory → Memory
  | [], _, m => m
  | c :: cs, i, m => buildTable cs (i + 1) (m.insert c.toNat (BitVec.ofNat 8 i))

/-- TABLE_VALID <- 0 (R38, R104, R105). -/
def invalidateTable (s : State) : State := { s with tableValid := false }

/-- BUILD after its acceptance. -/
def buildEffect (s : State) : State :=
  let r := s.config.radix.toNat
  if r < 2 ∨ 256 < r then
    raiseFault .command .invalidRadix 0 (invalidateTable s)
  else
    match firstDuplicate [] (symbols s.alpha r) 0 with
    | some j => raiseFault .command .duplicateSymbol j (invalidateTable s)
    | none =>
      { s with
        tabc := buildTable (symbols s.alpha r) 0 [], tradix := s.config.radix, tableValid := true, stage := .idle }

/-! ### START (R107, R108) -/

/-- START's checks, in their order; what it latches when all pass. -/
def startChecks (s : State) : Except ErrCode Latches :=
  if s.config.codec = .reserved then .error .badConfig
  else if s.config.codec = .generic ∧ s.tableValid = false then .error .noTable
  else
    let r := startRadix s.config.codec s.tradix
    match geometry r with
    | none => .ok { s.lat with codec := s.config.codec, dir := s.config.dir, radix := r, path := .acc }
    | some geo =>
      let g := groupLength s.config.dir geo
      if s.winGroups.toNat < 2 ∨ s.params.wbufCap < s.winGroups.toNat * g then .error .badConfig
      else
        .ok { codec := s.config.codec, dir := s.config.dir, radix := r, path := .pack
              k := geo.k, nb := geo.nb, nc := geo.nc, g := g, w := s.winGroups.toNat * g }

/-- The state a conversion starts in (R108). -/
def startStage : Path → Stage
  | .acc => .accRun
  | .pack => .fill

/-- START after its acceptance. -/
def startEffect (s : State) : State :=
  match startChecks s with
  | .error code => raiseFault .command code 0 s
  | .ok lat =>
    { s with
      lat := lat, d := [], wb := [], wbase := 0, oq := [], eoseen := false, incnt := 0, outcnt := 0
      stage := startStage lat.path }

/-! ### Issue and acceptance (R100, R101) -/

/-- The command an accepted word that is not NOP encodes (R101, R103). -/
def commandEffect (w : Word) (s : State) : State :=
  if w = 0x00000001#32 then buildEffect s
  else if w = 0x00000002#32 then startEffect s
  else raiseFault .command .illegalCommand 0 s

/-- A write of w to CMD (R101). -/
def issueCommand (w : Word) (s : State) : State :=
  if s.busy then (if w = 0x00000000#32 then s else { s with wign := true })
  else if w = 0x00000000#32 then s
  else commandEffect w (acceptCommand s)

/-! ### The CMD32 rows -/

/-- NOP (R102). -/
def execNop (s : State) : Host.Outcome State Fault Refusal := .next (issueCommand 0x00000000#32 s)

/-- BUILD (R104, R105). -/
def execBuild (s : State) : Host.Outcome State Fault Refusal := .next (issueCommand 0x00000001#32 s)

/-- START (R107, R108). -/
def execStart (s : State) : Host.Outcome State Fault Refusal := .next (issueCommand 0x00000002#32 s)

/-- An illegal command word (R83, R103). -/
def execIllegal (op : BitVec 4) (rsv : BitVec 28) (s : State) : Host.Outcome State Fault Refusal :=
  .next (issueCommand (rsv ++ op) s)

end Sys2Proof.Machine
end

