-- ==== Sys2Proof/Machine/Bus.lean ====
section
/-! DEFINITION. The meanings of the BUS32 rows: register accesses (10_state.md R21 to R37; 20_memory.md R62 to
R64; 40_commands.md R100, R109). -/

namespace Sys2Proof.Machine

/-- `rd ID` (R21). -/
def execRdId (s : State) : Host.Outcome State Fault Refusal := .next (busRead idValue s)

/-- What an accepted CONFIG write stores (R24): a change of RADIX clears TABLE_VALID. -/
def storeConfig (v : Word) (s : State) : State :=
  { s with
    config := configOfWord v
    tableValid := s.tableValid && decide ((configOfWord v).radix = s.config.radix) }

/-- `wr CONFIG` (R24, R30). -/
def execWrConfig (v : Word) (s : State) : Host.Outcome State Fault Refusal :=
  .next (busWrote (writeUnlessBusy (storeConfig v) s))

/-- `rd CONFIG` (R23, R24). -/
def execRdConfig (s : State) : Host.Outcome State Fault Refusal := .next (busRead (configWord s.config) s)

/-- What an accepted WINCFG write stores (R25). -/
def storeWincfg (v : Word) (s : State) : State := { s with winGroups := wincfgOfWord v }

/-- `wr WINCFG` (R25, R30). -/
def execWrWincfg (v : Word) (s : State) : Host.Outcome State Fault Refusal :=
  .next (busWrote (writeUnlessBusy (storeWincfg v) s))

/-- `rd WINCFG` (R25). -/
def execRdWincfg (s : State) : Host.Outcome State Fault Refusal := .next (busRead (wincfgWord s.winGroups) s)

/-- `wr CMD` (R100, R101): issues the command the word encodes. -/
def execWrCmd (w : Word) (s : State) : Host.Outcome State Fault Refusal := .next (busWrote (issueCommand w s))

/-- `rd CMD` (R26): 0, and no command. -/
def execRdCmd (s : State) : Host.Outcome State Fault Refusal := .next (busRead 0 s)

/-- `rd STATUS` (R27, R29). -/
def execRdStatus (s : State) : Host.Outcome State Fault Refusal := .next (busRead (statusWord s) s)

/-- `rd ERRPOS` (R32). -/
def execRdErrpos (s : State) : Host.Outcome State Fault Refusal := .next (busRead s.errpos s)

/-- `rd INCNT` (R33). -/
def execRdIncnt (s : State) : Host.Outcome State Fault Refusal := .next (busRead s.incnt s)

/-- `rd OUTCNT` (R34). -/
def execRdOutcnt (s : State) : Host.Outcome State Fault Refusal := .next (busRead s.outcnt s)

/-- What an accepted ALPHA write stores (R36): four lanes, and TABLE_VALID is cleared. -/
def storeAlpha (j : Nat) (v : Word) (s : State) : State :=
  { s with alpha := storeAlphaWord s.alpha j v, tableValid := false }

/-- `wr ALPHA+j` (R36, R30). -/
def execWrAlpha (j : BitVec 6) (v : Word) (s : State) : Host.Outcome State Fault Refusal :=
  .next (busWrote (writeUnlessBusy (storeAlpha j.toNat v) s))

/-- `rd ALPHA+j` (R36). -/
def execRdAlpha (j : BitVec 6) (s : State) : Host.Outcome State Fault Refusal :=
  .next (busRead (alphaWord s.alpha j.toNat) s)

/-- `rd DTAB+c` for c = 0..127 (R37). -/
def execRdDtab (c : BitVec 7) (s : State) : Host.Outcome State Fault Refusal :=
  .next (busRead (dtabWord s.tabc c.toNat) s)

/-- `rd DTAB+c` for c = 128..255 (R37): the row's low bits are c - 128. -/
def execRdDtabHi (c : BitVec 7) (s : State) : Host.Outcome State Fault Refusal :=
  .next (busRead (dtabWord s.tabc (128 + c.toNat)) s)

/-- Every other access (R62, R63): a bus error where it is not an aligned 32-bit one; otherwise a read answers
0 and a write is ignored, without WIGN. -/
def execReservedAccess (a : BusAccess) (s : State) : Host.Outcome State Fault Refusal :=
  .next
    (if a.bytes = 4 ∧ a.off.extractLsb' 0 2 = 0#2 then (if a.write then busWrote s else busRead 0 s)
     else busRefused a.write s)

end Sys2Proof.Machine
end

