-- ==== Sys2Proof/Machine/EngineAcc.lean ====
section
/-! DEFINITION. The engine operations of STATE = ACC_RUN (41_accumulate.md R124 to R126). An operation that the
state does not select, or that waits for its token, changes nothing (43_stream.md R161, 20_memory.md R61;
assumption log 5). -/

namespace Sys2Proof.Machine

/-- The token is taken and counted (R33). -/
def takeByte (s : State) : State := { takeToken s with incnt := s.incnt + 1 }

/-- An ACC fault (R213, R214): D is lost, then fault entry. -/
def raiseAccFault (code : ErrCode) (pos : Nat) (s : State) : State := raiseFault .engine code pos (loseDigits s)

/-- An ACC step's outcome on D (R120, R121, R123): the new digits, or CAPACITY_EXCEEDED at p. CARRY is not
defined afterwards (R46). -/
def finishAccStep (d' : Option (List Byte)) (p : Nat) (s : State) : State :=
  match d' with
  | none => raiseAccFault .capacityExceeded p (loseCarry s)
  | some d => { loseCarry s with d := d }

/-- ACC_ENC_BYTE's writes for the byte b (R124). -/
def accEncByteEffect (b : Byte) (s : State) : State :=
  finishAccStep (accEncStep s.lat.radix.toNat s.params.digitCap s.d b) s.incnt.toNat (takeByte s)

/-- ACC_DEC_BYTE's writes for the character b (R125): an invalid one faults before any arithmetic. -/
def accDecByteEffect (b : Byte) (s : State) : State :=
  match activeTable s b with
  | none => raiseAccFault .invalidCharacter s.incnt.toNat (takeByte s)
  | some v =>
    finishAccStep (accDecStep s.lat.radix.toNat s.params.digitCap s.d v) s.incnt.toNat (takeByte s)

/-- ACC_END's output (R126). -/
def accOutput (s : State) : List Byte :=
  match s.lat.dir with
  | .encode => accEncOutput (activeAlphabet s) s.d
  | .decode => accDecOutput s.d

/-- ACC_END's writes (R126). -/
def accEndEffect (s : State) : State :=
  { takeToken s with eoseen := true, oq := accOutput s, stage := .emit }

/-- ACC_ENC_BYTE: STATE = ACC_RUN, LDIR = ENCODE, LPATH = ACC, IN offers Byte(b) (R88, R124). -/
def execAccEncByte (_codec : Codec) (s : State) : Host.Outcome State Fault Refusal :=
  match s.stage, s.lat.dir, s.lat.path, s.inOffer with
  | .accRun, .encode, .acc, .byte b :: _ => .next (accEncByteEffect b s)
  | _, _, _, _ => .next s

/-- ACC_DEC_BYTE: STATE = ACC_RUN, LDIR = DECODE, LPATH = ACC, IN offers Byte(b) (R88, R125). -/
def execAccDecByte (_codec : Codec) (s : State) : Host.Outcome State Fault Refusal :=
  match s.stage, s.lat.dir, s.lat.path, s.inOffer with
  | .accRun, .decode, .acc, .byte b :: _ => .next (accDecByteEffect b s)
  | _, _, _, _ => .next s

/-- ACC_END: STATE = ACC_RUN, LPATH = ACC, IN offers End (R88, R126). -/
def execAccEnd (_dir : Dir) (_codec : Codec) (s : State) : Host.Outcome State Fault Refusal :=
  match s.stage, s.lat.path, s.inOffer with
  | .accRun, .acc, .eos :: _ => .next (accEndEffect s)
  | _, _, _ => .next s

end Sys2Proof.Machine
end

