-- ==== Sys2Proof/Machine/Base64.lean ====
section
/-! DEFINITION. The two operations of CODEC = BASE64 on a partial final group (44_base64.md R191 to R193). -/

namespace Sys2Proof.Machine

/-- B64_ENC_TAIL (R191), for 1 or 2 bytes. -/
def b64EncTail (bytes : List Byte) : List Byte :=
  match bytes with
  | [] => []
  | [b0] =>
    let a := b0.toNat <<< 4
    [rom64 (a >>> 6), rom64 (a % 64), padByte, padByte]
  | b0 :: b1 :: _ =>
    let a := ((b0.toNat <<< 8) ||| b1.toNat) <<< 2
    [rom64 (a >>> 12), rom64 ((a >>> 6) % 64), rom64 (a % 64), padByte]

/-- The index of the first PAD of a group (R192: the caller checked that there is one). -/
def firstPad (c : List Byte) : Nat := c.findIdx (· == padByte)

/-- R193: whether the character at index i of a padded group offends. -/
def padOffends (c : List Byte) (i : Nat) : Bool :=
  if i < firstPad c then (tab64 (c.getD i 0)).isNone
  else if i = firstPad c then decide (firstPad c < 2)
  else c.getD i 0 != padByte

/-- The digit of the character at index t of a padded group (R192, after the checks). -/
def padDigit (c : List Byte) (t : Nat) : Nat := (tab64 (c.getD t 0)).getD 0

/-- B64_DEC_PAD (R192): 1 or 2 bytes, or the message index at which INVALID_CHARACTER is raised. -/
def b64DecPad (c : List Byte) (s : Nat) : Except Nat (List Byte) :=
  match (List.range 4).find? (padOffends c) with
  | some i => .error (s + i)
  | none =>
    if firstPad c = 2 then
      .ok [BitVec.ofNat 8 (((padDigit c 0 <<< 6) ||| padDigit c 1) >>> 4)]
    else
      let a := ((padDigit c 0 <<< 12) ||| (padDigit c 1 <<< 6) ||| padDigit c 2) >>> 2
      .ok [BitVec.ofNat 8 (a >>> 8), BitVec.ofNat 8 a]

end Sys2Proof.Machine
end

