-- ==== Sys2Proof/Machine/BitPack.lean ====
section
/-! DEFINITION. The PACK unit's datapath (42_bitpack.md R142 to R144). PACC is computed as a natural number;
R141 gives that a group never exceeds its 56 bits. -/

namespace Sys2Proof.Machine

/-- Bytes into PACC, most significant first (R142). -/
def packBytes (bytes : List Byte) : Nat :=
  bytes.foldl (fun a b => (a <<< 8) ||| b.toNat) 0

/-- The digits e[0], e[1], … taken from PACC low k bits first (R142), as many as asked for. -/
def packDigits (k : Nat) : Nat → Nat → List Nat
  | 0, _ => []
  | n + 1, a => a % 2 ^ k :: packDigits k n (a >>> k)

/-- PACK_ENC_GROUP (R142): a group's bytes to NC symbols, most significant digit first. -/
def packEncGroup (alphabet : Nat → Byte) (k nc : Nat) (bytes : List Byte) : List Byte :=
  (packDigits k nc (packBytes bytes)).reverse.map alphabet

/-- PACK_ENC_SHORT (R143): a short final group's bytes, right-aligned in PACC, to NC symbols. -/
def packEncShort (alphabet : Nat → Byte) (k nc : Nat) (bytes : List Byte) : List Byte :=
  (packDigits k nc (packBytes bytes)).reverse.map alphabet

/-- The accumulation of R144: each character's digit below the ones before it; the message index of the first
character that has none. -/
def packAccumulate (table : Byte → Option Nat) (k : Nat) : List Byte → Nat → Nat → Except Nat Nat
  | [], _, a => .ok a
  | c :: cs, pos, a =>
    match table c with
    | none => .error pos
    | some v => packAccumulate table k cs (pos + 1) ((a <<< k) ||| v)

/-- NB bytes out of PACC, most significant first (R144). -/
def packUnload (nb a : Nat) : List Byte :=
  (List.range nb).map (fun j => BitVec.ofNat 8 (a >>> (8 * (nb - 1 - j))))

/-- PACK_DEC_GROUP (R144): a group's characters, the first at message index s, to NB bytes; or the message index
at which INVALID_CHARACTER is raised. -/
def packDecGroup (table : Byte → Option Nat) (k nb : Nat) (chars : List Byte) (s : Nat) :
    Except Nat (List Byte) :=
  match packAccumulate table k chars s 0 with
  | .error p => .error p
  | .ok a => .ok (packUnload nb a)

end Sys2Proof.Machine
end

