-- ==== Sys2Proof/Machine/Slicer.lean ====
section
/-! DEFINITION. The SLICER's window conversions (43_stream.md R169 to R172), over the latched geometry. -/

namespace Sys2Proof.Machine

/-- ENC_BODY (R169): PACK_ENC_GROUP over the whole groups of X, in order. -/
def encBody (lat : Latches) (alphabet : Nat → Byte) (x : List Byte) : List Byte :=
  (List.range (x.length / lat.nb)).flatMap
    (fun q => packEncGroup alphabet lat.k.toNat lat.nc ((x.drop (q * lat.nb)).take lat.nb))

/-- ENC_FINAL (R169): the whole groups of the last window, then the short group if there is one. -/
def encFinal (lat : Latches) (alphabet : Nat → Byte) (x : List Byte) : List Byte :=
  let f := x.length / lat.nb * lat.nb
  let body := encBody lat alphabet (x.take f)
  if f < x.length then
    if lat.codec = .base64 then body ++ b64EncTail (x.drop f)
    else body ++ packEncShort alphabet lat.k.toNat lat.nc (x.drop f)
  else body

/-- n groups of R170, the first character at message index s. -/
def decGroups (lat : Latches) (table : Byte → Option Nat) : Nat → List Byte → Nat → Except Nat (List Byte)
  | 0, _, _ => .ok []
  | n + 1, x, s =>
    match packDecGroup table lat.k.toNat lat.nb (x.take lat.nc) s with
    | .error p => .error p
    | .ok out =>
      match decGroups lat table n (x.drop lat.nc) (s + lat.nc) with
      | .error p => .error p
      | .ok rest => .ok (out ++ rest)

/-- DEC_BODY (R170): all or nothing, the fault at the smallest message index of an invalid character. -/
def decBody (lat : Latches) (table : Byte → Option Nat) (x : List Byte) (s : Nat) : Except Nat (List Byte) :=
  decGroups lat table (x.length / lat.nc) x s

/-- TRUNC (R172). -/
def truncLength (nc n : Nat) : Nat := n / nc * nc

/-- The last group of a decode message (R171): a padded BASE64 group is decoded specially. -/
def decLast (lat : Latches) (table : Byte → Option Nat) (c : List Byte) (s : Nat) : Except Nat (List Byte) :=
  if lat.codec = .base64 ∧ padByte ∈ c then b64DecPad c s
  else packDecGroup table lat.k.toNat lat.nb c s

/-- DEC_FINAL (R171): the last window of a decode. -/
def decFinal (lat : Latches) (table : Byte → Option Nat) (x : List Byte) (s : Nat) : Except Nat (List Byte) :=
  let n := truncLength lat.nc x.length
  if n = 0 then .ok []
  else
    match decBody lat table (x.take (n - lat.nc)) s with
    | .error p => .error p
    | .ok body =>
      match decLast lat table ((x.take n).drop (n - lat.nc)) (s + (n - lat.nc)) with
      | .error p => .error p
      | .ok tail => .ok (body ++ tail)

end Sys2Proof.Machine
end

