-- ==== Sys2Proof/Machine/EngineStream.lean ====
section
/-! DEFINITION. The engine operations of FILL, EMIT, FLUSH_ERR and DRAIN (43_stream.md R164 to R176). An operation
that the state does not select, or that waits for a token or for OUT, changes nothing (R161, 20_memory.md
R61; assumption log 5). -/

namespace Sys2Proof.Machine

/-! ### FILL -/

/-- A window's conversion that raised at message index p (R213, R214): WB, WBASE and OQ are not written. -/
def raiseWindowFault (p : Nat) (s : State) : State := raiseFault .engine .invalidCharacter p (losePacc s)

/-- A full window of an encode, WB being x (R167). -/
def fullEncodeWindow (x : List Byte) (s : State) : State :=
  { losePacc s with
    oq := encBody s.lat (activeAlphabet s) x, wbase := s.wbase + BitVec.ofNat 32 s.lat.w, wb := []
    stage := .emit }

/-- A full window of a decode, WB being x (R167): its last group waits for the next window. -/
def fullDecodeWindow (x : List Byte) (s : State) : State :=
  let n := s.lat.w - s.lat.nc
  match decBody s.lat (activeTable s) (x.take n) s.wbase.toNat with
  | .error p => raiseWindowFault p s
  | .ok out =>
    { losePacc s with
      oq := out, wbase := s.wbase + BitVec.ofNat 32 n, wb := x.drop n, stage := .emit }

/-- FILL_BYTE's writes for the byte b (R167). -/
def fillByteEffect (b : Byte) (s : State) : State :=
  let x := s.wb ++ [b]
  if x.length = s.lat.w then
    match s.lat.dir with
    | .encode => fullEncodeWindow x (takeByte s)
    | .decode => fullDecodeWindow x (takeByte s)
  else { takeByte s with wb := x }

/-- The last window's conversion (R168, R169, R171), or the message index of its fault. -/
def finalWindow (s : State) : Except Nat (List Byte) :=
  match s.lat.dir with
  | .encode => .ok (encFinal s.lat (activeAlphabet s) s.wb)
  | .decode => decFinal s.lat (activeTable s) s.wb s.wbase.toNat

/-- FILL_END's writes (R168); EOSEEN is set even when the window faults. -/
def fillEndEffect (s : State) : State :=
  match finalWindow s with
  | .error p => raiseWindowFault p { takeToken s with eoseen := true }
  | .ok out => { losePacc (takeToken s) with eoseen := true, oq := out, wb := [], stage := .emit }

/-- FILL_BYTE: STATE = FILL, LPATH = PACK, IN offers Byte(b) (R88, R167). -/
def execFillByte (_dir : Dir) (_codec : Codec) (s : State) : Host.Outcome State Fault Refusal :=
  match s.stage, s.lat.path, s.inOffer with
  | .fill, .pack, .byte b :: _ => .next (fillByteEffect b s)
  | _, _, _ => .next s

/-- FILL_END: STATE = FILL, LPATH = PACK, IN offers End (R88, R168). -/
def execFillEnd (_dir : Dir) (_codec : Codec) (s : State) : Host.Outcome State Fault Refusal :=
  match s.stage, s.lat.path, s.inOffer with
  | .fill, .pack, .eos :: _ => .next (fillEndEffect s)
  | _, _, _ => .next s

/-! ### EMIT -/

/-- EMIT_BYTE: STATE = EMIT, OQ ≠ [], when OUT accepts (R164). -/
def execEmitByte (_dir : Dir) (_path : Path) (_codec : Codec) (s : State) : Host.Outcome State Fault Refusal :=
  match s.stage, s.oq with
  | .emit, b :: rest =>
    match putToken (.byte b) s with
    | some s' => .next { s' with oq := rest, outcnt := s.outcnt + 1 }
    | none => .next s
  | _, _ => .next s

/-- EMIT_END: STATE = EMIT, OQ = [], EOSEEN = 1, when OUT accepts (R165). -/
def execEmitEnd (_dir : Dir) (_path : Path) (_codec : Codec) (s : State) : Host.Outcome State Fault Refusal :=
  match s.stage, s.oq, s.eoseen with
  | .emit, [], true =>
    match putToken .endOk s with
    | some s' => .next { s' with stage := .done }
    | none => .next s
  | _, _, _ => .next s

/-- EMIT_REFILL: STATE = EMIT, OQ = [], EOSEEN = 0 (R173). -/
def execEmitRefill (_dir : Dir) (_path : Path) (_codec : Codec) (s : State) : Host.Outcome State Fault Refusal :=
  match s.stage, s.oq, s.eoseen with
  | .emit, [], false => .next { s with stage := .fill }
  | _, _, _ => .next s

/-! ### FLUSH_ERR and DRAIN -/

/-- Where FLUSH_ERR goes (R175). -/
def afterFlush (eoseen : Bool) : Stage := if eoseen then .error else .drain

/-- FLUSH_ERR, when OUT accepts (R175). -/
def execFlushErr (_dir : Dir) (_path : Path) (_codec : Codec) (s : State) : Host.Outcome State Fault Refusal :=
  match s.stage with
  | .flushErr =>
    match putToken .endErr s with
    | some s' => .next { s' with stage := afterFlush s.eoseen }
    | none => .next s
  | _ => .next s

/-- DRAIN_BYTE: the byte is taken and not counted (R176, R33). -/
def execDrainByte (_dir : Dir) (_path : Path) (_codec : Codec) (s : State) : Host.Outcome State Fault Refusal :=
  match s.stage, s.inOffer with
  | .drain, .byte _ :: _ => .next (takeToken s)
  | _, _ => .next s

/-- DRAIN_END (R176). -/
def execDrainEnd (_dir : Dir) (_path : Path) (_codec : Codec) (s : State) : Host.Outcome State Fault Refusal :=
  match s.stage, s.inOffer with
  | .drain, .eos :: _ => .next { takeToken s with eoseen := true, stage := .error }
  | _, _ => .next s

end Sys2Proof.Machine
end

