-- ==== Sys2Proof/Machine/Ports.lean ====
section
/-! DEFINITION. The meanings of the IN9 and OUT10 rows as what the host does on the ports (30_encoding.md R84,
R85, R91 `push` and `pop`; assumption log 7 and 8). -/

namespace Sys2Proof.Machine

/-- `push 0xNN` (R84, R91): the host offers Byte(b). -/
def execInByte (b : Byte) (s : State) : Host.Outcome State Fault Refusal := .next (offerToken (.byte b) s)

/-- `push end` (R84, R91): the host offers End; DATA is ignored. -/
def execInEnd (_ignored : Byte) (s : State) : Host.Outcome State Fault Refusal := .next (offerToken .eos s)

/-- `pop = 0xNN` (R85, R91): the consumer accepts one token and asserts Byte(b). -/
def execOutByte (b : Byte) (s : State) : Host.Outcome State Fault Refusal := .next (acceptToken (some (.byte b)) s)

/-- `pop = end` (R85, R91): the consumer accepts one token and asserts End(ok). -/
def execOutEndOk (s : State) : Host.Outcome State Fault Refusal := .next (acceptToken (some .endOk) s)

/-- `pop = end!err` (R85, R91): the consumer accepts one token and asserts End(err). -/
def execOutEndErr (s : State) : Host.Outcome State Fault Refusal := .next (acceptToken (some .endErr) s)

end Sys2Proof.Machine
end

