-- ==== Sys2Proof/Machine/Dispatch.lean ====
section
/-! DEFINITION. One arm per constructor of Instr: one direct call of its meaning. -/

namespace Sys2Proof.Machine

def exec (i : Instr) (s : State) : Host.Outcome State Fault Refusal :=
  match i with
  | .nop => Sys2Proof.Machine.execNop s
  | .build => Sys2Proof.Machine.execBuild s
  | .start => Sys2Proof.Machine.execStart s
  | .illegal op rsv => Sys2Proof.Machine.execIllegal op rsv s
  | .inByte b => Sys2Proof.Machine.execInByte b s
  | .inEnd d => Sys2Proof.Machine.execInEnd d s
  | .outByte b => Sys2Proof.Machine.execOutByte b s
  | .outEndOk => Sys2Proof.Machine.execOutEndOk s
  | .outEndErr => Sys2Proof.Machine.execOutEndErr s
  | .accEncByte c => Sys2Proof.Machine.execAccEncByte c s
  | .accDecByte c => Sys2Proof.Machine.execAccDecByte c s
  | .accEnd d c => Sys2Proof.Machine.execAccEnd d c s
  | .fillByte d c => Sys2Proof.Machine.execFillByte d c s
  | .fillEnd d c => Sys2Proof.Machine.execFillEnd d c s
  | .emitByte d p c => Sys2Proof.Machine.execEmitByte d p c s
  | .emitEnd d p c => Sys2Proof.Machine.execEmitEnd d p c s
  | .emitRefill d p c => Sys2Proof.Machine.execEmitRefill d p c s
  | .flushErr d p c => Sys2Proof.Machine.execFlushErr d p c s
  | .drainByte d p c => Sys2Proof.Machine.execDrainByte d p c s
  | .drainEnd d p c => Sys2Proof.Machine.execDrainEnd d p c s
  | .rdId => Sys2Proof.Machine.execRdId s
  | .wrConfig v => Sys2Proof.Machine.execWrConfig v s
  | .rdConfig => Sys2Proof.Machine.execRdConfig s
  | .wrWincfg v => Sys2Proof.Machine.execWrWincfg v s
  | .rdWincfg => Sys2Proof.Machine.execRdWincfg s
  | .wrCmd w => Sys2Proof.Machine.execWrCmd w s
  | .rdCmd => Sys2Proof.Machine.execRdCmd s
  | .rdStatus => Sys2Proof.Machine.execRdStatus s
  | .rdErrpos => Sys2Proof.Machine.execRdErrpos s
  | .rdIncnt => Sys2Proof.Machine.execRdIncnt s
  | .rdOutcnt => Sys2Proof.Machine.execRdOutcnt s
  | .wrAlpha j v => Sys2Proof.Machine.execWrAlpha j v s
  | .rdAlpha j => Sys2Proof.Machine.execRdAlpha j s
  | .rdDtab c => Sys2Proof.Machine.execRdDtab c s
  | .rdDtabHi c => Sys2Proof.Machine.execRdDtabHi c s
  | .reservedAccess a => Sys2Proof.Machine.execReservedAccess a s

end Sys2Proof.Machine
end

