-- ==== Sys2Proof/Machine/Turns.lean ====
section
/-! DEFINITION. How the next instruction is fetched and run: the turns of the agenda (00_scope.md R13,
20_memory.md R68, 30_encoding.md R91, R92), the engine's selector (R87), and how a table word is placed where
the next step fetches it. -/

namespace Sys2Proof.Machine

/-! ### The engine's turn -/

/-- Whether the oldest offered token is End: none if nothing is offered (R61). -/
def offeredEnd (s : State) : Option Bool :=
  match s.inOffer with
  | [] => none
  | .byte _ :: _ => some false
  | .eos :: _ => some true

/-- TOK (R87): the step of ACC_RUN, FILL and DRAIN takes a token, and waits while none is offered; the other
states' steps take none. -/
def tokenBit (s : State) : Option Bool :=
  match s.stage with
  | .accRun => offeredEnd s
  | .fill => offeredEnd s
  | .drain => offeredEnd s
  | .idle => some false
  | .emit => some false
  | .done => some false
  | .error => some false
  | .flushErr => some false

/-- The selector of the engine's next step (R87); none while it waits for a token. -/
def selector (s : State) : Option Selector :=
  match tokenBit s with
  | none => none
  | some tok =>
    some { dsel := dselOf s.stage tok s.lat.dir s.lat.path s.lat.codec
           oqNonEmpty := !s.oq.isEmpty, eoseen := s.eoseen }

/-- Decode a fetched word and run it. A selector without an operation does nothing (43_stream.md R177); one
that never occurs stops the model (assumption log 6), as does an OUT word that is never produced (log 7). -/
def runWord (f : FetchWord) (s : State) : Host.Outcome State Fault Refusal :=
  match decode f with
  | .ok i => exec i s
  | .error .noEngineStep => .next s
  | .error .unreachableSelector => .fault .unreachableSelector
  | .error (.outWordNeverProduced w) => .refused (.outWordNeverProduced w)

/-- The engine's chance to make one step (R161): it waits where it needs a token that is not offered. -/
def engineTurn (s : State) : Host.Outcome State Fault Refusal :=
  match selector s with
  | none => .next s
  | some sel => runWord (.engine sel) s

/-! ### The host's turns -/

/-- Whether what a host program waits for holds (R91). -/
def waitHolds (w : WaitFor) (s : State) : Bool :=
  match w with
  | .stage st => s.stage == st
  | .taken => s.inOffer.isEmpty
  | .delivered => s.outAccept.isEmpty

/-- `poll S` (R92): read STATUS; unless STATE = S, let the engine have a turn and read again. -/
def pollAgenda (st : Stage) (rest : List Turn) (s : State) : List Turn :=
  if s.stage = st then rest else .engine :: .poll st :: rest

/-- One turn of the agenda; with an empty agenda the engine has the turn (R241; assumption log 4). -/
def takeTurn (s : State) : Host.Outcome State Fault Refusal :=
  match s.agenda with
  | [] => engineTurn s
  | .word h :: rest => runWord (.host h) { s with agenda := rest }
  | .engine :: rest => engineTurn { s with agenda := rest }
  | .accept :: rest => .next (acceptToken none { s with agenda := rest })
  | .withdraw :: rest => .next { s with agenda := rest, inOffer := [] }
  | .check v :: rest => .next { s with agenda := rest, assertFailed := s.assertFailed || s.busData != v }
  | .wait w :: rest => if waitHolds w s then .next { s with agenda := rest } else engineTurn s
  | .poll st :: rest => exec .rdStatus { s with agenda := pollAgenda st rest s }
  | .reset :: rest => .next (resetEvent { s with agenda := rest })

/-! ### Host programs (R91, R92) -/

/-- `cmd w` (R91). -/
def cmdTurn (w : Word) : Turn := .word (.cmd w)

/-- `wr OFF, V` (R91). -/
def wrTurn (off : BitVec 12) (v : Word) : Turn :=
  .word (.bus { write := true, bytes := 4, off := off, data := v })

/-- `rd OFF` (R91). -/
def rdTurn (off : BitVec 12) : Turn :=
  .word (.bus { write := false, bytes := 4, off := off, data := 0 })

/-- `push 0xNN` (R91): offer, and wait until taken. -/
def pushByte (b : Byte) : List Turn := [.word (.push (0#1 ++ b)), .wait .taken]

/-- `push end` (R91). -/
def pushEnd : List Turn := [.word (.push 0x100#9), .wait .taken]

/-- `pop = …` (R91): accept one token, assert it, and wait until it came. -/
def popToken (t : OutToken) : List Turn := [.word (.pop (outWord t)), .wait .delivered]

/-- `pushs "s"` (R92). -/
def pushString (bytes : List Byte) : List Turn := bytes.flatMap pushByte ++ pushEnd

/-- `pops "s"` (R92). -/
def popString (bytes : List Byte) : List Turn :=
  bytes.flatMap (fun b => popToken (.byte b)) ++ popToken .endOk

/-- The word j of `alpha "s"` (R92): a byte beyond the end of s is 0. -/
def alphabetWord (bytes : List Byte) (j : Nat) : Word :=
  bytes.getD (4 * j + 3) 0 ++ bytes.getD (4 * j + 2) 0 ++ bytes.getD (4 * j + 1) 0 ++ bytes.getD (4 * j) 0

/-- `alpha "s"` (R92). -/
def alphaProgram (bytes : List Byte) : List Turn :=
  (List.range ((bytes.length + 3) / 4)).map
    (fun j => wrTurn (BitVec.ofNat 12 (0x100 + 4 * j)) (alphabetWord bytes j))

/-- `config CODEC, DIR, RADIX` (R92). -/
def configTurn (codec : Codec) (dir : Dir) (radix : BitVec 9) : Turn :=
  wrTurn 0x004#12 (configWord { radix := radix, codec := codec, dir := dir })

/-! ### Placing a word (assumption log 2, 3) -/

/-- Whether a state's engine step takes a token from IN (R88). -/
def takesToken : Stage → Bool
  | .accRun => true
  | .fill => true
  | .drain => true
  | .idle => false
  | .emit => false
  | .done => false
  | .error => false
  | .flushErr => false

/-- The token that makes TOK what a selector says (R87): DSEL does not say which byte. -/
def tokenFor (tok : Bool) : InToken := if tok then .eos else .byte 0

/-- Make a selector the one of the engine's next step: the state, latches and conditions it is made of, a
token where the step takes one, an acceptance where it puts one. -/
def placeSelector (sel : Selector) (s : State) : State :=
  let st := stageOfBits (sel.dsel.extractLsb' 5 3)
  { s with
    stage := st
    lat := { s.lat with
      dir := dirOfBit (sel.dsel.getLsbD 3), path := pathOfBit (sel.dsel.getLsbD 2)
      codec := codecOfBits (sel.dsel.extractLsb' 0 2) }
    inOffer := if takesToken st then tokenFor (sel.dsel.getLsbD 4) :: s.inOffer else s.inOffer
    outAccept := if st = .flushErr then none :: s.outAccept else s.outAccept
    oq := if st = .emit then (if sel.oqNonEmpty then 0 :: s.oq else []) else s.oq
    eoseen := if st = .emit then sel.eoseen else s.eoseen
    agenda := .engine :: s.agenda }

/-- Place a fetched word where the next step fetches. -/
def placeWord (f : FetchWord) (s : State) : State :=
  match f with
  | .host h => { s with agenda := .word h :: s.agenda }
  | .engine sel => placeSelector sel s

/-- Place a table word; a number that is no table word leaves the state as it is. -/
def placeTableWord (nbits w : Nat) (s : State) : State :=
  match tableFetchWord nbits w with
  | none => s
  | some f => placeWord f s

end Sys2Proof.Machine
end

