-- ==== Sys2Proof/Machine/Step.lean ====
section
/-! DEFINITION. One step of the machine, and placing a table word where it fetches. -/

namespace Sys2Proof.Machine

/-- One step: one turn of the agenda (00_scope.md R13). -/
def step (s : State) : Host.Outcome State Fault Refusal := takeTurn s

/-- s with the table word placed where `step` fetches its next instruction (assumption log 2, 3). -/
def State.withFetchWord (s : State) (nbits w : Nat) : State := placeTableWord nbits w s

end Sys2Proof.Machine
end

