-- ==== Sys2Proof/Machine/Convert.lean ====
section
/-! DEFINITION. The whole-message function Convert (43_stream.md R179, R180): what a conversion gives, whatever
the window size and the interleaving. The machine does not call it. -/

namespace Sys2Proof.Machine

/-- `Ok(out)` or `Err(code, pos)` (R179). -/
inductive Converted where
  | ok (out : List Byte)
  | err (code : ErrCode) (pos : Nat)
deriving DecidableEq, Repr

/-- The ACC path's encode loop (R180): D after the message, or the index at which CAPACITY_EXCEEDED is raised. -/
def accEncMessage (lr cap : Nat) : List Byte → Nat → List Byte → Except Nat (List Byte)
  | [], _, d => .ok d
  | c :: m, p, d =>
    match accEncStep lr cap d c with
    | none => .error p
    | some d' => accEncMessage lr cap m (p + 1) d'

/-- The ACC path's decode loop (R180): D after the message, or the code and index of the fault. -/
def accDecMessage (table : Byte → Option Nat) (lr cap : Nat) :
    List Byte → Nat → List Byte → Except (ErrCode × Nat) (List Byte)
  | [], _, d => .ok d
  | c :: m, p, d =>
    match table c with
    | none => .error (.invalidCharacter, p)
    | some v =>
      match accDecStep lr cap d v with
      | none => .error (.capacityExceeded, p)
      | some d' => accDecMessage table lr cap m (p + 1) d'

/-- Convert (R180), with the latches, the active pair and DIGIT_CAP of a state. -/
def convert (s : State) (m : List Byte) : Converted :=
  match s.lat.path, s.lat.dir with
  | .acc, .encode =>
    match accEncMessage s.lat.radix.toNat s.params.digitCap m 0 [] with
    | .ok d => .ok (accEncOutput (activeAlphabet s) d)
    | .error p => .err .capacityExceeded p
  | .acc, .decode =>
    match accDecMessage (activeTable s) s.lat.radix.toNat s.params.digitCap m 0 [] with
    | .ok d => .ok (accDecOutput d)
    | .error (code, p) => .err code p
  | .pack, .encode => .ok (encFinal s.lat (activeAlphabet s) m)
  | .pack, .decode =>
    match decFinal s.lat (activeTable s) m 0 with
    | .ok out => .ok out
    | .error p => .err .invalidCharacter p

end Sys2Proof.Machine
end

