-- ==== Sys2Proof/Safety.lean ====
section
/-! DEFINITION. What claims about BXC are stated in: the invariants of a run, the number a digit list stands for,
the block apart from the host's side of its ports, and a conversion that has just begun. -/

namespace Sys2Proof.Machine

/-! ### Runs -/

/-- Some number of steps leads from s to t. -/
def Reaches (s t : State) : Prop := ∃ n, Host.Core.run Sys2Proof.core n s = .next t

/-- t differs from s only in the host's side of the ports and in the agenda: no state of BXC changed. -/
def SameBlock (s t : State) : Prop :=
  t = { s with
    inOffer := t.inOffer, outAccept := t.outAccept, outTokens := t.outTokens, busData := t.busData
    busError := t.busError, assertFailed := t.assertFailed, agenda := t.agenda }

/-- The agenda's next turn is not an OUT word that is never produced (R85), the one host word without a meaning. -/
def NextWordLegal (s : State) : Prop :=
  ∀ w rest, s.agenda = .word (.pop w) :: rest → w ∈ [outWord .endOk, outWord .endErr] ∨ w.extractLsb' 8 2 = 0#2

/-- The engine has the turn: the agenda is empty, or begins with an engine turn, or with a wait whose condition does
not hold (assumption log 4, 23). -/
def EngineHasTurn (s : State) : Prop :=
  s.agenda = [] ∨ (∃ rest, s.agenda = .engine :: rest)
    ∨ ∃ w rest, s.agenda = .wait w :: rest ∧ waitHolds w s = false

/-- The words whose acceptance is a command other than NOP (R101): a CMD word, or a write to CMD. -/
def isCommandTurn : Turn → Bool
  | .word (.cmd w) => w != 0
  | .word (.bus a) => a.write && a.bytes == 4 && a.off == 0x00C#12 && a.data != 0
  | .word (.push _) => false
  | .word (.pop _) => false
  | .engine => false
  | .accept => false
  | .withdraw => false
  | .check _ => false
  | .wait _ => false
  | .poll _ => false
  | .reset => false

/-- The writes that a busy block ignores and records in WIGN (R30). -/
def isGuardedWrite : Turn → Bool
  | .word (.cmd w) => w != 0
  | .word (.bus a) =>
    a.write && a.bytes == 4 && a.off.toNat % 4 == 0
      && (a.off == 0x004#12 || a.off == 0x008#12 || (a.off == 0x00C#12 && a.data != 0)
        || (decide (0x100 ≤ a.off.toNat) && decide (a.off.toNat < 0x200)))
  | .word (.push _) => false
  | .word (.pop _) => false
  | .engine => false
  | .accept => false
  | .withdraw => false
  | .check _ => false
  | .wait _ => false
  | .poll _ => false
  | .reset => false

/-! ### Numbers (R8, R128) -/

/-- The number a list of cells stands for, least significant cell first. -/
def valueLE (base : Nat) : List Byte → Nat
  | [] => 0
  | x :: xs => x.toNat + base * valueLE base xs

/-- A list of numbers read as digits, most significant first. -/
def valueBE (base : Nat) (digits : List Nat) : Nat := digits.foldl (fun a x => a * base + x) 0

/-- val(M): bytes read as a big-endian unsigned integer (R66, R128). -/
def messageValue (m : List Byte) : Nat := valueBE 256 (m.map BitVec.toNat)

/-- A representation in the base with no most significant zero digit (R128). -/
def canonicalDigits (base : Nat) (d : List Byte) : Prop :=
  (∀ x ∈ d, x.toNat < base) ∧ d.getLast? ≠ some 0

/-! ### Invariants -/

/-- ERRCODE and ERRPOS agree with STATE (R31, R32): 0 while ERR = 0, a code 1..7 while ERR = 1. -/
def StatusInv (s : State) : Prop :=
  (stageErr s.stage = false → s.errcode = 0 ∧ s.errpos = 0)
    ∧ (stageErr s.stage = true → 1 ≤ s.errcode.toNat ∧ s.errcode.toNat ≤ 7)

/-- ALPHA and TABC keep their canonical form. -/
def MemoryInv (s : State) : Prop := s.alpha.wf = true ∧ s.tabc.tableWf = true

/-- While TABLE_VALID = 1, TRADIX = CONFIG.RADIX and TABC is the table of ALPHA[0..TRADIX-1] (R38). -/
def TableInv (s : State) : Prop :=
  s.tableValid = true →
    s.tradix = s.config.radix ∧ 2 ≤ s.tradix.toNat ∧ s.tradix.toNat ≤ 256
      ∧ (∀ i, i < s.tradix.toNat → s.tabc.find (s.alpha.read i).toNat = some (BitVec.ofNat 8 i))
      ∧ (∀ c v, s.tabc.find c = some v → v.toNat < s.tradix.toNat ∧ (s.alpha.read v.toNat).toNat = c)

/-- The latches of a conversion on the ACC path (R107, R108, R140). -/
def AccLatches (s : State) : Prop :=
  s.lat.path = .acc ∧ geometry s.lat.radix = none ∧ 3 ≤ s.lat.radix.toNat ∧ s.lat.radix.toNat ≤ 256

/-- The latches of a conversion on the PACK path with n groups a window (R44, R107, R108, R141). -/
def PackLatchesFor (lat : Latches) (n : Nat) : Prop :=
  ∃ geo, geometry lat.radix = some geo ∧ lat.path = .pack ∧ lat.k = geo.k ∧ lat.nb = geo.nb ∧ lat.nc = geo.nc
    ∧ lat.g = groupLength lat.dir geo ∧ 2 ≤ n ∧ lat.w = n * lat.g ∧ (lat.codec = .base64 → lat.radix = 64)

/-- The latches of a PACK conversion, with the window inside WBUF_CAP (R107). -/
def PackLatches (s : State) : Prop :=
  PackLatchesFor s.lat s.winGroups.toNat ∧ s.lat.w ≤ s.params.wbufCap

/-- A PACK conversion that will fill a window next. -/
def filling (s : State) : Prop := s.stage = .fill ∨ (s.stage = .emit ∧ s.eoseen = false)

/-- The engine's states and its latches and buffers agree (R88, R108, R163, R167, R173, R214), given the bounds
START checks. -/
def EngineInv (s : State) : Prop :=
  (s.stage = .accRun → AccLatches s ∧ s.eoseen = false)
    ∧ (filling s → PackLatches s ∧ s.wb.length < s.lat.w)
    ∧ (s.stage = .fill → s.eoseen = false)
    ∧ (s.stage ≠ .emit → s.oq = [])

/-- D's cells are digits of the number's base, and none is a most significant 0 (R45, R128). -/
def DigitsInv (s : State) : Prop :=
  s.stage = .accRun →
    s.d.length ≤ s.params.digitCap
      ∧ canonicalDigits (match s.lat.dir with | .encode => s.lat.radix.toNat | .decode => 256) s.d

/-- The buffers' capacities (R45, R48, R49). -/
def BufferInv (s : State) : Prop :=
  s.d.length ≤ s.params.digitCap ∧ s.wb.length ≤ s.params.wbufCap
    ∧ (s.lat.path = .pack → s.oq.length ≤ 8 * s.params.wbufCap)
    ∧ (s.lat.path = .acc → s.oq.length ≤ s.params.digitCap)

/-- The invariant of the whole machine. -/
def Inv (s : State) : Prop :=
  s.params.legal ∧ StatusInv s ∧ MemoryInv s ∧ TableInv s ∧ EngineInv s ∧ DigitsInv s ∧ BufferInv s

/-! ### A conversion that has just begun -/

/-- The state START leaves (R108), with the message m, its End and whatever follows offered on IN, and only the
engine moving. -/
def Begun (s : State) (m : List Byte) (rest : List InToken) : Prop :=
  s.agenda = [] ∧ s.d = [] ∧ s.wb = [] ∧ s.wbase = 0 ∧ s.oq = [] ∧ s.eoseen = false ∧ s.incnt = 0 ∧ s.outcnt = 0
    ∧ s.stage = startStage s.lat.path ∧ s.inOffer = m.map InToken.byte ++ .eos :: rest

/-- A conversion that ended well (R181): exactly these bytes and End(ok) delivered, the message and its End
taken, the counters its lengths. -/
def EndsOk (s t : State) (m out : List Byte) (rest : List InToken) : Prop :=
  t.stage = .done ∧ t.outTokens = s.outTokens ++ out.map OutToken.byte ++ [.endOk] ∧ t.inOffer = rest
    ∧ t.incnt = BitVec.ofNat 32 m.length ∧ t.outcnt = BitVec.ofNat 32 out.length

/-- A conversion that ended with a fault (R181): ERROR with the code and position, the message and its End taken,
and, after some data bytes, End(err) delivered last. -/
def EndsErr (s t : State) (code : ErrCode) (pos : Nat) (before : List Byte) (rest : List InToken) : Prop :=
  t.stage = .error ∧ t.errcode = errCodeBits code ∧ t.errpos = BitVec.ofNat 32 pos ∧ t.inOffer = rest
    ∧ t.outTokens = s.outTokens ++ before.map OutToken.byte ++ [.endErr]

end Sys2Proof.Machine
end

