-- ==== Sys2Proof/Certificates/Slice0/Obligations.lean ====
section
/-! DEFINITION. The statements for the provers. Each docstring names the rule of spec/ a statement formalises; where
a clause is the model's own choice, it names the assumption log's entry. -/

open Sys2Proof Sys2Proof.Machine

/-! ### Fetch and decode -/

/-- A turn that presents a host word runs exec of the instruction the word decodes to, with only the turn taken
off the agenda (R100, R109; the agenda is the model's: assumption log 3). -/
def Obligations.StepRunsTheDecodedHostWord : Prop :=
  ∀ (s : State) (h : HostWord) (rest : List Turn) (i : Instr),
    s.agenda = .word h :: rest → decode (.host h) = .ok i → step s = exec i { s with agenda := rest }

/-- The engine has the turn with an empty agenda, at an engine turn, and at a host's wait whose condition does not hold
(the turns are the model's: assumption log 3, 4, 23). Then the step runs exec of the operation that DSEL and the two
conditions select (R87, R88, R161); where the operation needs a token and none is offered, the engine waits (R61); in
IDLE, DONE and ERROR it does nothing (R177). `t` is `s` with an engine turn taken off; a wait stays until its condition
holds. -/
def Obligations.StepRunsTheSelectedEngineOperation : Prop :=
  (∀ s t : State,
      (s.agenda = [] ∧ t = s
        ∨ (∃ rest, s.agenda = .engine :: rest ∧ t = { s with agenda := rest })
        ∨ (∃ w rest, s.agenda = .wait w :: rest ∧ waitHolds w s = false ∧ t = s)) →
      (∀ sel i, selector s = some sel → decode (.engine sel) = .ok i → step s = exec i t)
        ∧ (s.stage = .accRun ∨ s.stage = .fill ∨ s.stage = .drain → s.inOffer = [] → step s = .next t)
        ∧ (s.stage = .idle ∨ s.stage = .done ∨ s.stage = .error → step s = .next t))
    ∧ ∀ (s : State) (w : WaitFor) (rest : List Turn), s.agenda = .wait w :: rest → waitHolds w s = true →
      step s = .next { s with agenda := rest }

/-- Words written out from R82, R84, R85, R88, R22 decode to their rows. -/
def Obligations.SampleWordsDecode : Prop :=
  decode (.host (.cmd 0x00000002#32)) = .ok .start
    ∧ decode (.host (.cmd 0x00000012#32)) = .ok (.illegal 2#4 1#28)
    ∧ decode (.host (.push 0x166#9)) = .ok (.inEnd 0x66#8)
    ∧ decode (.host (.pop 0x300#10)) = .ok .outEndErr
    ∧ decode (.engine ⟨0b01001101#8, false, false⟩) = .ok (.fillByte .decode .base58)
    ∧ decode (.engine ⟨0b01100100#8, false, true⟩) = .ok (.emitEnd .encode .pack .base64)
    ∧ decode (.host (.bus ⟨false, 4, 0x38C#12, 0⟩)) = .ok (.rdDtab 0x63#7)
    ∧ decode (.host (.bus ⟨true, 4, 0x104#12, 0x11#32⟩)) = .ok (.wrAlpha 1#6 0x11#32)

/-- Decode and encode agree on every well-formed instruction (R80 to R91). -/
def Obligations.DecodeOfEncodeIsTheInstruction : Prop :=
  ∀ i : Instr, i.wellFormed = true → decode (encode i) = .ok i

/-- R90: every command word decodes to one of NOP, BUILD, START and illegal, every IN word to one token, and every
reachable selector to one operation of R88, or to none in IDLE, DONE and ERROR (R177). Register accesses decode too. -/
def Obligations.DecodingIsTotal : Prop :=
  (∀ w : BitVec 32,
      decode (.host (.cmd w)) = .ok .nop ∨ decode (.host (.cmd w)) = .ok .build
        ∨ decode (.host (.cmd w)) = .ok .start
        ∨ ∃ op rsv, decode (.host (.cmd w)) = .ok (.illegal op rsv) ∧ illegalWordOk op rsv = true)
    ∧ (∀ w : BitVec 9, ∃ b, decode (.host (.push w)) = .ok (.inByte b) ∨ decode (.host (.push w)) = .ok (.inEnd b))
    ∧ (∀ (st : Stage) (tok : Bool) (d : Dir) (p : Sys2Proof.Path) (c : Codec) (q e : Bool),
        (st = .accRun → p = .acc) → (st = .fill → p = .pack) →
        (tok = true → st = .accRun ∨ st = .fill ∨ st = .drain) →
        (st = .idle ∨ st = .done ∨ st = .error) ∧ decode (.engine ⟨dselOf st tok d p c, q, e⟩) = .error .noEngineStep
          ∨ (st ≠ .idle ∧ st ≠ .done ∧ st ≠ .error)
            ∧ ∃ i, decode (.engine ⟨dselOf st tok d p c, q, e⟩) = .ok i)
    ∧ ∀ a : BusAccess, ∃ i, decode (.host (.bus a)) = .ok i ∧ i.wellFormed = true

/-! ### Commands (40_commands.md) -/

/-- R102: the word 0x00000000 is NOP, and NOP has no effect in any state. -/
def Obligations.NopHasNoEffect : Prop :=
  decode (.host (.cmd 0x00000000#32)) = .ok .nop ∧ ∀ s : State, exec .nop s = .next s

/-- R103: every word other than 0, 1 and 2 is illegal; idle it faults ILLEGAL_COMMAND and changes nothing else, busy
it is ignored and sets WIGN. -/
def Obligations.IllegalCommandFaults : Prop :=
  ∀ w : BitVec 32, w ≠ 0 → w ≠ 1 → w ≠ 2 →
    ∃ op rsv, decode (.host (.cmd w)) = .ok (.illegal op rsv) ∧ ∀ s : State,
      (s.busy = false → exec (.illegal op rsv) s =
          .next { s with wign := false, errcode := 6, errpos := 0, stage := .error })
        ∧ (s.busy = true → exec (.illegal op rsv) s = .next { s with wign := true })

/-- R104: BUILD with a RADIX below 2 or above 256 clears TABLE_VALID and faults INVALID_RADIX; TABC and TRADIX keep
their contents. -/
def Obligations.BuildChecksTheRadix : Prop :=
  decode (.host (.cmd 0x00000001#32)) = .ok .build
    ∧ ∀ s : State, s.busy = false → (s.config.radix.toNat < 2 ∨ 256 < s.config.radix.toNat) →
      exec .build s =
        .next { s with wign := false, errcode := 2, errpos := 0, stage := .error, tableValid := false }

/-- R105: BUILD faults DUPLICATE_SYMBOL at the smallest j that equals an earlier symbol; with distinct symbols it
derives the table: each symbol's entry its index, every other entry -1. Nothing else changes (R106). -/
def Obligations.BuildDerivesTheTable : Prop :=
  ∀ s : State, s.busy = false → 2 ≤ s.config.radix.toNat → s.config.radix.toNat ≤ 256 →
    (∀ j, j < s.config.radix.toNat → (∃ i, i < j ∧ s.alpha.read i = s.alpha.read j) →
        (∀ j' i, j' < j → i < j' → s.alpha.read i ≠ s.alpha.read j') →
        exec .build s =
          .next { s with
            wign := false, errcode := 3, errpos := BitVec.ofNat 32 j, stage := .error, tableValid := false })
      ∧ ((∀ j i, j < s.config.radix.toNat → i < j → s.alpha.read i ≠ s.alpha.read j) →
        ∃ t : State, exec .build s = .next t
          ∧ t = { s with
              wign := false, errcode := 0, errpos := 0, tabc := t.tabc, tradix := s.config.radix
              tableValid := true, stage := .idle }
          ∧ (∀ i, i < s.config.radix.toNat → tableEntry t.tabc (s.alpha.read i).toNat = (i : Int))
          ∧ ∀ c, (∀ i, i < s.config.radix.toNat → (s.alpha.read i).toNat ≠ c) → tableEntry t.tabc c = -1)

/-- R107: START's checks, in their order; a failing one faults and changes nothing else but the flags every accepted
command clears (R101). `r` is START's radix, 64, 58 or TRADIX, and `g` the group length of the input side. -/
def Obligations.StartChecksInOrder : Prop :=
  decode (.host (.cmd 0x00000002#32)) = .ok .start ∧ ∀ s : State, s.busy = false →
    (s.config.codec = .reserved →
        exec .start s = .next { s with wign := false, errcode := 7, errpos := 0, stage := .error })
      ∧ (s.config.codec = .generic → s.tableValid = false →
        exec .start s = .next { s with wign := false, errcode := 4, errpos := 0, stage := .error })
      ∧ (∀ (r : BitVec 9) (geo : Geometry) (g : Nat),
        (s.config.codec = .base64 ∧ r = 64 ∨ s.config.codec = .base58 ∧ r = 58
          ∨ s.config.codec = .generic ∧ s.tableValid = true ∧ r = s.tradix) →
        geometry r = some geo → (s.config.dir = .encode ∧ g = geo.nb ∨ s.config.dir = .decode ∧ g = geo.nc) →
        (s.winGroups.toNat < 2 ∨ s.params.wbufCap < s.winGroups.toNat * g) →
        exec .start s = .next { s with wign := false, errcode := 7, errpos := 0, stage := .error })

/-- R108: when every check of R107 passes, START latches, empties the working state and enters ACC_RUN or FILL. `r` is
the latched radix (64 for BASE64, 58 for BASE58, TRADIX for GENERIC: R107) and `g` the latched group length. The active
pair is the one of the latched codec (R43). -/
def Obligations.StartLatchesAndEnters : Prop :=
  (∀ s : State,
      (s.lat.codec = .base64 → activeAlphabet s = rom64 ∧ activeTable s = tab64)
        ∧ (s.lat.codec = .base58 → activeAlphabet s = rom58 ∧ activeTable s = tab58)
        ∧ (s.lat.codec = .generic →
          activeAlphabet s = s.alpha.read ∧ ∀ c, activeTable s c = (s.tabc.find c.toNat).map BitVec.toNat))
    ∧ ∀ (s : State) (r : BitVec 9), s.busy = false →
      (s.config.codec = .base64 ∧ r = 64 ∨ s.config.codec = .base58 ∧ r = 58
        ∨ s.config.codec = .generic ∧ s.tableValid = true ∧ r = s.tradix) →
      (geometry r = none →
          exec .start s =
            .next { s with
              wign := false, errcode := 0, errpos := 0
              lat := { s.lat with codec := s.config.codec, dir := s.config.dir, radix := r, path := .acc }
              d := [], wb := [], wbase := 0, oq := [], eoseen := false, incnt := 0, outcnt := 0, stage := .accRun })
        ∧ ∀ (geo : Geometry) (g : Nat), geometry r = some geo →
          (s.config.dir = .encode ∧ g = geo.nb ∨ s.config.dir = .decode ∧ g = geo.nc) →
          2 ≤ s.winGroups.toNat → s.winGroups.toNat * g ≤ s.params.wbufCap →
          exec .start s =
            .next { s with
              wign := false, errcode := 0, errpos := 0
              lat :=
                { codec := s.config.codec, dir := s.config.dir, radix := r, path := .pack, k := geo.k, nb := geo.nb
                  nc := geo.nc, g := g, w := s.winGroups.toNat * g }
              d := [], wb := [], wbase := 0, oq := [], eoseen := false, incnt := 0, outcnt := 0, stage := .fill }

/-- R140, R141: the PACK radices are 2^k for 1 ≤ k ≤ 7, with g = lcm(k, 8), NB = g/8, NC = g/k; every other radix of
2..256 takes the ACC path. -/
def Obligations.GeometryIsTheLcm : Prop :=
  ∀ r : BitVec 9,
    geometry r =
      if r.toNat ∈ [2, 4, 8, 16, 32, 64, 128] then
        some ⟨BitVec.ofNat 3 (Nat.log2 r.toNat), Nat.lcm (Nat.log2 r.toNat) 8 / 8,
          Nat.lcm (Nat.log2 r.toNat) 8 / Nat.log2 r.toNat⟩
      else none

/-- R235: writes to CONFIG, WINCFG, ALPHA and CMD (other than NOP) while BUSY = 1 are ignored and set WIGN. -/
def Obligations.WritesWhileBusyAreLost : Prop :=
  ∀ s : State, s.busy = true →
    (∀ v, exec (.wrConfig v) s = .next { s with wign := true, busError := false })
      ∧ (∀ v, exec (.wrWincfg v) s = .next { s with wign := true, busError := false })
      ∧ (∀ j v, exec (.wrAlpha j v) s = .next { s with wign := true, busError := false })
      ∧ (∀ w, w ≠ 0 → exec (.wrCmd w) s = .next { s with wign := true, busError := false })
      ∧ exec (.wrCmd 0) s = .next { s with busError := false }
      ∧ exec .build s = .next { s with wign := true } ∧ exec .start s = .next { s with wign := true }

/-! ### The ports (30_encoding.md R84, R85) -/

/-- R84: every IN word is a token, bit 8 tells which, and every value of DATA gives the same End token; offering it
appends it to what the host has offered (R70). -/
def Obligations.InWordsAreOffered : Prop :=
  ∀ w : BitVec 9,
    (w.getLsbD 8 = false →
        decode (.host (.push w)) = .ok (.inByte (w.extractLsb' 0 8))
          ∧ ∀ s : State, exec (.inByte (w.extractLsb' 0 8)) s =
            .next { s with inOffer := s.inOffer ++ [.byte (w.extractLsb' 0 8)] })
      ∧ (w.getLsbD 8 = true →
        decode (.host (.push w)) = .ok (.inEnd (w.extractLsb' 0 8))
          ∧ ∀ s : State, exec (.inEnd (w.extractLsb' 0 8)) s = .next { s with inOffer := s.inOffer ++ [.eos] })

/-- R85: the three forms of an OUT word, and no other; presenting one is an acceptance that asserts it (R91; the
model's reading: assumption log 7). -/
def Obligations.OutWordsAreAcceptances : Prop :=
  (∀ b : Byte, decode (.host (.pop (0#2 ++ b))) = .ok (.outByte b)
      ∧ ∀ s : State, exec (.outByte b) s = .next { s with outAccept := s.outAccept ++ [some (.byte b)] })
    ∧ (decode (.host (.pop 0x100#10)) = .ok .outEndOk
      ∧ ∀ s : State, exec .outEndOk s = .next { s with outAccept := s.outAccept ++ [some .endOk] })
    ∧ (decode (.host (.pop 0x300#10)) = .ok .outEndErr
      ∧ ∀ s : State, exec .outEndErr s = .next { s with outAccept := s.outAccept ++ [some .endErr] })
    ∧ ∀ w : BitVec 10, w.extractLsb' 8 2 ≠ 0#2 → w ≠ 0x100#10 → w ≠ 0x300#10 →
        decode (.host (.pop w)) = .error (.outWordNeverProduced w)

/-! ### The ACC unit (41_accumulate.md) -/

/-- R124: ACC_ENC_BYTE takes and counts the byte and makes D the digits of 256·N + b; if that number needs more than
DIGIT_CAP digits it faults CAPACITY_EXCEEDED at the byte's index (R123). Nothing is put on OUT. CARRY, and D after the
fault, are free values (assumption log 17, 18). -/
def Obligations.AccEncodeByteMultipliesAndAdds : Prop :=
  ∀ (s : State) (c : Codec) (b : Byte) (rest : List InToken),
    s.stage = .accRun → s.lat.dir = .encode → s.lat.path = .acc → s.inOffer = .byte b :: rest →
    3 ≤ s.lat.radix.toNat → s.lat.radix.toNat ≤ 256 → canonicalDigits s.lat.radix.toNat s.d →
    s.d.length ≤ s.params.digitCap →
    (256 * valueLE s.lat.radix.toNat s.d + b.toNat < s.lat.radix.toNat ^ s.params.digitCap →
        ∃ t : State, exec (.accEncByte c) s = .next t
          ∧ t = { s with inOffer := rest, incnt := s.incnt + 1, d := t.d, carry := t.carry, draws := t.draws }
          ∧ valueLE s.lat.radix.toNat t.d = 256 * valueLE s.lat.radix.toNat s.d + b.toNat
          ∧ canonicalDigits s.lat.radix.toNat t.d)
      ∧ (s.lat.radix.toNat ^ s.params.digitCap ≤ 256 * valueLE s.lat.radix.toNat s.d + b.toNat →
        ∃ t : State, exec (.accEncByte c) s = .next t
          ∧ t = { s with
              inOffer := rest, incnt := s.incnt + 1, d := t.d, carry := t.carry, draws := t.draws
              errcode := 5, errpos := s.incnt, stage := .flushErr })

/-- R125: ACC_DEC_BYTE takes and counts the character; an invalid one faults INVALID_CHARACTER before any
arithmetic; otherwise D becomes the bytes of LR·N + v, or CAPACITY_EXCEEDED is raised if there are more than
DIGIT_CAP of them. CARRY, and D after a fault, are free values (assumption log 17, 18). -/
def Obligations.AccDecodeByteMultipliesAndAdds : Prop :=
  ∀ (s : State) (c : Codec) (b : Byte) (rest : List InToken),
    s.stage = .accRun → s.lat.dir = .decode → s.lat.path = .acc → s.inOffer = .byte b :: rest →
    3 ≤ s.lat.radix.toNat → s.lat.radix.toNat ≤ 256 → canonicalDigits 256 s.d →
    s.d.length ≤ s.params.digitCap →
    (activeTable s b = none →
        ∃ t : State, exec (.accDecByte c) s = .next t
          ∧ t = { s with
              inOffer := rest, incnt := s.incnt + 1, d := t.d, draws := t.draws
              errcode := 1, errpos := s.incnt, stage := .flushErr })
      ∧ ∀ v, activeTable s b = some v → v < s.lat.radix.toNat →
        (s.lat.radix.toNat * valueLE 256 s.d + v < 256 ^ s.params.digitCap →
            ∃ t : State, exec (.accDecByte c) s = .next t
              ∧ t = { s with inOffer := rest, incnt := s.incnt + 1, d := t.d, carry := t.carry, draws := t.draws }
              ∧ valueLE 256 t.d = s.lat.radix.toNat * valueLE 256 s.d + v
              ∧ canonicalDigits 256 t.d)
          ∧ (256 ^ s.params.digitCap ≤ s.lat.radix.toNat * valueLE 256 s.d + v →
            ∃ t : State, exec (.accDecByte c) s = .next t
              ∧ t = { s with
                  inOffer := rest, incnt := s.incnt + 1, d := t.d, carry := t.carry, draws := t.draws
                  errcode := 5, errpos := s.incnt, stage := .flushErr })

/-- R126: ACC_END takes End, sets EOSEEN and queues D's symbols (or cells) most significant first. -/
def Obligations.AccEndQueuesTheDigits : Prop :=
  ∀ (s : State) (d : Dir) (c : Codec) (rest : List InToken),
    s.stage = .accRun → s.lat.path = .acc → s.inOffer = .eos :: rest →
    (s.lat.dir = .encode →
        exec (.accEnd d c) s =
          .next { s with
            inOffer := rest, eoseen := true, stage := .emit
            oq := s.d.reverse.map (fun x => activeAlphabet s x.toNat) })
      ∧ (s.lat.dir = .decode →
        exec (.accEnd d c) s =
          .next { s with inOffer := rest, eoseen := true, stage := .emit, oq := s.d.reverse })

/-- R127: CARRY after each addition is at most 256·LR - 1 ≤ 65535, and at the top of each iteration at most 255 when
encoding and LR - 1 when decoding: 16 bits always suffice. `d` are the cells the loop has passed, `x` the next. -/
def Obligations.CarryFitsSixteenBits : Prop :=
  ∀ (lr : Nat) (d : List Byte) (x : Byte) (c : Nat), 3 ≤ lr → lr ≤ 256 →
    ((∀ y ∈ d, y.toNat < lr) → x.toNat < lr → c ≤ 255 →
        (accCells 256 lr d c).2 ≤ 255 ∧ (accCells 256 lr d c).2 + x.toNat * 256 ≤ 256 * lr - 1)
      ∧ (c < lr → (accCells lr 256 d c).2 ≤ lr - 1 ∧ (accCells lr 256 d c).2 + x.toNat * lr ≤ 256 * lr - 1)
      ∧ 256 * lr - 1 ≤ 65535

/-- R128: after ACC_ENC_STEP has run on a message from D = [], D is the radix-LR representation of the message's
big-endian value with no most significant zero digit, and [] when the value is 0; after ACC_DEC_STEP has run on
digits, D is the base-256 representation of their number in base LR. -/
def Obligations.AccumulationClosedForm : Prop :=
  (∀ (lr cap : Nat) (m d : List Byte), 3 ≤ lr → lr ≤ 256 → accEncMessage lr cap m 0 [] = .ok d →
      valueLE lr d = messageValue m ∧ canonicalDigits lr d ∧ (messageValue m = 0 → d = []))
    ∧ ∀ (table : Byte → Option Nat) (lr cap : Nat) (m d : List Byte) (digits : List Nat), 3 ≤ lr → lr ≤ 256 →
      m.map table = digits.map some → (∀ v ∈ digits, v < lr) → accDecMessage table lr cap m 0 [] = .ok d →
        valueLE 256 d = valueBE lr digits ∧ canonicalDigits 256 d ∧ (valueBE lr digits = 0 → d = [])

/-- R130: on the ACC path a leading 0x00 byte does not change what an encode gives, nor a leading character of digit
value 0 what a decode gives; and a decode of an encode gives the message with its leading 0x00 bytes removed, whatever
the two runs' capacities. -/
def Obligations.AccRoundTripDropsLeadingZeros : Prop :=
  (∀ (lr cap : Nat) (m d : List Byte), 3 ≤ lr → lr ≤ 256 →
      (accEncMessage lr cap (0 :: m) 0 [] = .ok d ↔ accEncMessage lr cap m 0 [] = .ok d))
    ∧ (∀ (table : Byte → Option Nat) (lr cap : Nat) (c : Byte) (m d : List Byte), 3 ≤ lr → lr ≤ 256 →
      table c = some 0 →
        (accDecMessage table lr cap (c :: m) 0 [] = .ok d ↔ accDecMessage table lr cap m 0 [] = .ok d))
    ∧ ∀ (alphabet : Nat → Byte) (table : Byte → Option Nat) (lr cap cap' : Nat) (m d d' : List Byte),
      3 ≤ lr → lr ≤ 256 → (∀ i, i < lr → table (alphabet i) = some i) →
      accEncMessage lr cap m 0 [] = .ok d →
      accDecMessage table lr cap' (accEncOutput alphabet d) 0 [] = .ok d' →
        accDecOutput d' = m.dropWhile (· == 0)

/-! ### The PACK unit and the SLICER (42_bitpack.md, 43_stream.md) -/

/-- R145: PACK_DEC_GROUP of PACK_ENC_GROUP is the group, with the same alphabet and table, and so a message of whole
groups comes back whole. -/
def Obligations.PackRoundTrip : Prop :=
  ∀ (lat : Latches) (n : Nat) (alphabet : Nat → Byte) (table : Byte → Option Nat), PackLatchesFor lat n →
    (∀ i, i < 2 ^ lat.k.toNat → table (alphabet i) = some i) →
    (∀ (b : List Byte) (p : Nat), b.length = lat.nb →
        packDecGroup table lat.k.toNat lat.nb (packEncGroup alphabet lat.k.toNat lat.nc b) p = .ok b)
      ∧ ∀ m : List Byte, lat.nb ∣ m.length →
        (lat.codec = .base64 → ∀ i, i < 2 ^ lat.k.toNat → alphabet i ≠ padByte) →
        decFinal lat table (encFinal lat alphabet m) 0 = .ok m

/-- R143, R169: an encode of a codec other than BASE64 ends with its short final group, if it has one, written as NC
characters; and that group decodes to its bytes preceded by the missing bytes as 0x00. `m` are the whole groups, `b` the
short one. -/
def Obligations.ShortGroupDecodesRightAligned : Prop :=
  ∀ (lat : Latches) (n : Nat) (alphabet : Nat → Byte) (table : Byte → Option Nat) (b : List Byte) (p : Nat),
    PackLatchesFor lat n → (∀ i, i < 2 ^ lat.k.toNat → table (alphabet i) = some i) →
    1 ≤ b.length → b.length < lat.nb →
      (packEncShort alphabet lat.k.toNat lat.nc b).length = lat.nc
        ∧ packDecGroup table lat.k.toNat lat.nb (packEncShort alphabet lat.k.toNat lat.nc b) p =
          .ok (List.replicate (lat.nb - b.length) 0 ++ b)
        ∧ ∀ m : List Byte, lat.codec ≠ .base64 → lat.nb ∣ m.length →
          encFinal lat alphabet (m ++ b) =
              encFinal lat alphabet m ++ packEncShort alphabet lat.k.toNat lat.nc b
            ∧ decFinal lat table (encFinal lat alphabet (m ++ b)) p =
              .ok (m ++ List.replicate (lat.nb - b.length) 0 ++ b)

/-- R146: a message of whole groups encodes to exactly 8·|M|/k digits that represent val(M), most significant first,
leading zeros kept. -/
def Obligations.PackDigitsRepresentTheMessage : Prop :=
  ∀ (lat : Latches) (n : Nat) (alphabet : Nat → Byte) (m : List Byte), PackLatchesFor lat n →
    lat.nb ∣ m.length →
      ∃ digits : List Nat, encFinal lat alphabet m = digits.map alphabet
        ∧ digits.length * lat.k.toNat = 8 * m.length ∧ (∀ x ∈ digits, x < 2 ^ lat.k.toNat)
        ∧ valueBE (2 ^ lat.k.toNat) digits = messageValue m

/-- R167: FILL_BYTE takes and counts the byte; a window that is not full only grows; a full encode window is encoded
whole; a full decode window decodes all but its last group, which waits, and if it faults, WB, WBASE and OQ are not
written. PACC is a free value (assumption log 18). The first clause says when DEC_BODY faults, and where (R144, R170): at
the first character that has no digit; and that otherwise each group gives NB bytes. -/
def Obligations.FillByteConvertsFullWindows : Prop :=
  (∀ (lat : Latches) (n : Nat) (table : Byte → Option Nat) (x : List Byte) (p : Nat), PackLatchesFor lat n →
      (∀ i, i < x.length / lat.nc * lat.nc → table (x.getD i 0) = none →
          (∀ j, j < i → table (x.getD j 0) ≠ none) → decBody lat table x p = .error (p + i))
        ∧ ((∀ j, j < x.length / lat.nc * lat.nc → table (x.getD j 0) ≠ none) →
          ∃ out, decBody lat table x p = .ok out ∧ out.length = x.length / lat.nc * lat.nb))
    ∧ ∀ (s : State) (d : Dir) (c : Codec) (b : Byte) (rest : List InToken),
      s.stage = .fill → s.lat.path = .pack → s.inOffer = .byte b :: rest →
      (s.wb.length + 1 ≠ s.lat.w →
          exec (.fillByte d c) s = .next { s with inOffer := rest, incnt := s.incnt + 1, wb := s.wb ++ [b] })
        ∧ (s.wb.length + 1 = s.lat.w → s.lat.dir = .encode →
          ∃ t : State, exec (.fillByte d c) s = .next t
            ∧ t = { s with
                inOffer := rest, incnt := s.incnt + 1, oq := encBody s.lat (activeAlphabet s) (s.wb ++ [b])
                wbase := s.wbase + BitVec.ofNat 32 s.lat.w, wb := [], stage := .emit, pacc := t.pacc
                draws := t.draws })
        ∧ (∀ out, s.wb.length + 1 = s.lat.w → s.lat.dir = .decode →
          decBody s.lat (activeTable s) ((s.wb ++ [b]).take (s.lat.w - s.lat.nc)) s.wbase.toNat = .ok out →
          ∃ t : State, exec (.fillByte d c) s = .next t
            ∧ t = { s with
                inOffer := rest, incnt := s.incnt + 1, oq := out
                wbase := s.wbase + BitVec.ofNat 32 (s.lat.w - s.lat.nc)
                wb := (s.wb ++ [b]).drop (s.lat.w - s.lat.nc), stage := .emit, pacc := t.pacc, draws := t.draws })
        ∧ ∀ p, s.wb.length + 1 = s.lat.w → s.lat.dir = .decode →
          decBody s.lat (activeTable s) ((s.wb ++ [b]).take (s.lat.w - s.lat.nc)) s.wbase.toNat = .error p →
          ∃ t : State, exec (.fillByte d c) s = .next t
            ∧ t = { s with
                inOffer := rest, incnt := s.incnt + 1, errcode := 1, errpos := BitVec.ofNat 32 p
                stage := .flushErr, pacc := t.pacc, draws := t.draws }

/-- R168: FILL_END takes End, sets EOSEEN and queues the last window's output; if that faults, EOSEEN is 1 and OQ is
not written. PACC is a free value (assumption log 18). The first clause says when DEC_FINAL faults, and where, and what it
looks at (R171, R172, R194), N being the length of the whole groups: only their characters; the first one without a
digit faults, but for the characters of a last group that BASE64 reads as padded, which B64_DEC_PAD judges (R193). -/
def Obligations.FillEndConvertsTheLastWindow : Prop :=
  (∀ (lat : Latches) (n : Nat) (table : Byte → Option Nat) (x last : List Byte) (p N : Nat), PackLatchesFor lat n →
      N = x.length / lat.nc * lat.nc → last = (x.take N).drop (N - lat.nc) →
      decFinal lat table x p = decFinal lat table (x.take N) p
        ∧ (N = 0 → decFinal lat table x p = .ok [])
        ∧ (∀ i, i < N → table (x.getD i 0) = none → (∀ j, j < i → table (x.getD j 0) ≠ none) →
          (i < N - lat.nc ∨ lat.codec ≠ .base64 ∨ padByte ∉ last) → decFinal lat table x p = .error (p + i))
        ∧ ((∀ j, j < N → table (x.getD j 0) ≠ none) → (lat.codec ≠ .base64 ∨ padByte ∉ last) →
          ∃ out, decFinal lat table x p = .ok out ∧ out.length = x.length / lat.nc * lat.nb)
        ∧ (lat.codec = .base64 → padByte ∈ last → (∀ j, j < N - lat.nc → table (x.getD j 0) ≠ none) →
          (∀ q, b64DecPad last (p + (N - lat.nc)) = .error q → decFinal lat table x p = .error q)
            ∧ ∀ tail, b64DecPad last (p + (N - lat.nc)) = .ok tail →
              ∃ body, decFinal lat table x p = .ok (body ++ tail)
                ∧ body.length = (x.length / lat.nc - 1) * lat.nb))
    ∧ ∀ (s : State) (d : Dir) (c : Codec) (rest : List InToken),
      s.stage = .fill → s.lat.path = .pack → s.inOffer = .eos :: rest →
      (s.lat.dir = .encode →
          ∃ t : State, exec (.fillEnd d c) s = .next t
            ∧ t = { s with
                inOffer := rest, eoseen := true, oq := encFinal s.lat (activeAlphabet s) s.wb, wb := []
                stage := .emit, pacc := t.pacc, draws := t.draws })
        ∧ (∀ out, s.lat.dir = .decode → decFinal s.lat (activeTable s) s.wb s.wbase.toNat = .ok out →
          ∃ t : State, exec (.fillEnd d c) s = .next t
            ∧ t = { s with
                inOffer := rest, eoseen := true, oq := out, wb := [], stage := .emit, pacc := t.pacc
                draws := t.draws })
        ∧ ∀ p, s.lat.dir = .decode → decFinal s.lat (activeTable s) s.wb s.wbase.toNat = .error p →
          ∃ t : State, exec (.fillEnd d c) s = .next t
            ∧ t = { s with
                inOffer := rest, eoseen := true, errcode := 1, errpos := BitVec.ofNat 32 p, stage := .flushErr
                pacc := t.pacc, draws := t.draws }

/-- R164: EMIT_BYTE puts Byte(OQ[0]) on OUT, when the consumer accepts, and counts it. `e` is the acceptance it
uses up; whether that asserted another token is the host's record (assumption log 7). -/
def Obligations.EmitBytePutsTheFirst : Prop :=
  ∀ (s : State) (d : Dir) (p : Sys2Proof.Path) (c : Codec) (b : Byte) (out : List Byte) (e : Option OutToken)
    (rest : List (Option OutToken)),
    s.stage = .emit → s.oq = b :: out → s.outAccept = e :: rest →
      exec (.emitByte d p c) s =
        .next { s with
          outTokens := s.outTokens ++ [.byte b], oq := out, outcnt := s.outcnt + 1, outAccept := rest
          assertFailed := s.assertFailed || breaks e (.byte b) }

/-- R165: EMIT_END puts End(ok), when the consumer accepts, and STATE becomes DONE; STATUS then reads DONE = 1,
BUSY = 0. -/
def Obligations.EmitEndPutsEndOk : Prop :=
  ∀ (s : State) (d : Dir) (p : Sys2Proof.Path) (c : Codec) (e : Option OutToken) (rest : List (Option OutToken)),
    s.stage = .emit → s.oq = [] → s.eoseen = true → s.outAccept = e :: rest →
      ∃ t : State, exec (.emitEnd d p c) s = .next t
        ∧ t = { s with
            outTokens := s.outTokens ++ [.endOk], stage := .done, outAccept := rest
            assertFailed := s.assertFailed || breaks e .endOk }
        ∧ (statusWord t).getLsbD 1 = true ∧ (statusWord t).getLsbD 0 = false

/-- R173: EMIT_REFILL goes back to FILL; no token moves. -/
def Obligations.EmitRefillReturnsToFill : Prop :=
  ∀ (s : State) (d : Dir) (p : Sys2Proof.Path) (c : Codec),
    s.stage = .emit → s.oq = [] → s.eoseen = false →
      exec (.emitRefill d p c) s = .next { s with stage := .fill }

/-- R175: FLUSH_ERR puts End(err), when the consumer accepts, and goes to ERROR if End was taken, to DRAIN if not. -/
def Obligations.FlushErrPutsEndErr : Prop :=
  ∀ (s : State) (d : Dir) (p : Sys2Proof.Path) (c : Codec) (e : Option OutToken) (rest : List (Option OutToken)),
    s.stage = .flushErr → s.outAccept = e :: rest →
      exec (.flushErr d p c) s =
        .next { s with
          outTokens := s.outTokens ++ [.endErr], stage := if s.eoseen = true then .error else .drain
          outAccept := rest, assertFailed := s.assertFailed || breaks e .endErr }

/-- R176: DRAIN discards a Byte without counting it, and on End sets EOSEEN and goes to ERROR. -/
def Obligations.DrainDiscardsTheRest : Prop :=
  ∀ (s : State) (d : Dir) (p : Sys2Proof.Path) (c : Codec) (rest : List InToken), s.stage = .drain →
    (∀ b, s.inOffer = .byte b :: rest → exec (.drainByte d p c) s = .next { s with inOffer := rest })
      ∧ (s.inOffer = .eos :: rest →
        exec (.drainEnd d p c) s = .next { s with inOffer := rest, eoseen := true, stage := .error })

/-- An engine operation changes nothing wherever R88 does not select it (by STATE, TOK, DIR, PATH, OQ or EOSEEN), where
the token it takes is not offered, and where it puts a token that OUT does not accept (R61, R161; the model's reading:
assumption log 5). -/
def Obligations.WaitingOperationsChangeNothing : Prop :=
  ∀ (s : State) (d : Dir) (p : Sys2Proof.Path) (c : Codec),
    (s.stage ≠ .accRun ∨ s.lat.dir ≠ .encode ∨ s.lat.path ≠ .acc ∨ (∀ b rest, s.inOffer ≠ .byte b :: rest) →
        exec (.accEncByte c) s = .next s)
      ∧ (s.stage ≠ .accRun ∨ s.lat.dir ≠ .decode ∨ s.lat.path ≠ .acc ∨ (∀ b rest, s.inOffer ≠ .byte b :: rest) →
        exec (.accDecByte c) s = .next s)
      ∧ (s.stage ≠ .accRun ∨ s.lat.path ≠ .acc ∨ (∀ rest, s.inOffer ≠ .eos :: rest) →
        exec (.accEnd d c) s = .next s)
      ∧ (s.stage ≠ .fill ∨ s.lat.path ≠ .pack ∨ (∀ b rest, s.inOffer ≠ .byte b :: rest) →
        exec (.fillByte d c) s = .next s)
      ∧ (s.stage ≠ .fill ∨ s.lat.path ≠ .pack ∨ (∀ rest, s.inOffer ≠ .eos :: rest) →
        exec (.fillEnd d c) s = .next s)
      ∧ (s.stage ≠ .emit ∨ s.oq = [] ∨ s.outAccept = [] → exec (.emitByte d p c) s = .next s)
      ∧ (s.stage ≠ .emit ∨ s.oq ≠ [] ∨ s.eoseen = false ∨ s.outAccept = [] → exec (.emitEnd d p c) s = .next s)
      ∧ (s.stage ≠ .emit ∨ s.oq ≠ [] ∨ s.eoseen = true → exec (.emitRefill d p c) s = .next s)
      ∧ (s.stage ≠ .flushErr ∨ s.outAccept = [] → exec (.flushErr d p c) s = .next s)
      ∧ (s.stage ≠ .drain ∨ (∀ b rest, s.inOffer ≠ .byte b :: rest) → exec (.drainByte d p c) s = .next s)
      ∧ (s.stage ≠ .drain ∨ (∀ rest, s.inOffer ≠ .eos :: rest) → exec (.drainEnd d p c) s = .next s)

/-! ### Base64 and the fixed tables (44_base64.md, 10_state.md R39 to R42) -/

/-- R39, R40, R41, R42: the two fixed alphabets, character by character, and their tables. -/
def Obligations.FixedTablesAreTheAlphabets : Prop :=
  (List.range 64).map (fun i => Char.ofNat (rom64 i).toNat) =
      "ABCDEFGHIJKLMNOPQRSTUVWXYZabcdefghijklmnopqrstuvwxyz0123456789+/".toList
    ∧ (List.range 58).map (fun i => Char.ofNat (rom58 i).toNat) =
      "123456789ABCDEFGHJKLMNPQRSTUVWXYZabcdefghijkmnopqrstuvwxyz".toList
    ∧ (∀ i, i < 64 → tab64 (rom64 i) = some i) ∧ (∀ c, (∀ i, i < 64 → rom64 i ≠ c) → tab64 c = none)
    ∧ (∀ i, i < 58 → tab58 (rom58 i) = some i) ∧ (∀ c, (∀ i, i < 58 → rom58 i ≠ c) → tab58 c = none)

/-- R196: a base64 encode of n bytes gives 4·ceil(n/3) characters, of which 0, 2 or 1 are PAD, and decodes to the
bytes it came from, for every message; a decode that does not fault gives 3 bytes a group, less the PADs of its last
group. A final group of 1 or 2 bytes is written as R191 gives it, the unset low bits zero. -/
def Obligations.Base64RoundTrip : Prop :=
  ∀ (lat : Latches) (n : Nat) (m : List Byte), PackLatchesFor lat n → lat.codec = .base64 →
    (encFinal lat rom64 m).length = 4 * ((m.length + 2) / 3)
      ∧ (encFinal lat rom64 m).count padByte = (3 - m.length % 3) % 3
      ∧ decFinal lat tab64 (encFinal lat rom64 m) 0 = .ok m
      ∧ (∀ out, decFinal lat tab64 m 0 = .ok out →
        out.length + ((m.take (4 * (m.length / 4))).drop (4 * (m.length / 4) - 4)).count padByte =
          3 * (m.length / 4))
      ∧ (3 ∣ m.length → ∀ b0 b1 : Byte,
        encFinal lat rom64 (m ++ [b0]) =
            encFinal lat rom64 m ++ [rom64 (b0.toNat / 4), rom64 (b0.toNat % 4 * 16), padByte, padByte]
          ∧ encFinal lat rom64 (m ++ [b0, b1]) =
            encFinal lat rom64 m ++
              [rom64 (b0.toNat / 4), rom64 (b0.toNat % 4 * 16 + b1.toNat / 16), rom64 (b1.toNat % 16 * 4), padByte])

/-- R193: a padded group decodes exactly when it is `xx==` or `xxx=` with x in ROM64; otherwise the fault is at the
first offending character: one before the first PAD that is not in ROM64, the first PAD at index 0 or 1, or one after
the first PAD that is not PAD. A group that decodes gives the 1 or 2 bytes of R192, whatever the bits it discards
(R195). -/
def Obligations.PaddedGroupsHaveTwoForms : Prop :=
  ∀ (c0 c1 c2 c3 : Byte) (p : Nat), padByte ∈ [c0, c1, c2, c3] →
    ((∃ out, b64DecPad [c0, c1, c2, c3] p = .ok out) ↔
        (tab64 c0).isSome ∧ (tab64 c1).isSome ∧ c3 = padByte ∧ (c2 = padByte ∨ (tab64 c2).isSome))
      ∧ (tab64 c0 = none → b64DecPad [c0, c1, c2, c3] p = .error p)
      ∧ ((tab64 c0).isSome → tab64 c1 = none → b64DecPad [c0, c1, c2, c3] p = .error (p + 1))
      ∧ ((tab64 c0).isSome → (tab64 c1).isSome → c2 ≠ padByte → tab64 c2 = none →
        b64DecPad [c0, c1, c2, c3] p = .error (p + 2))
      ∧ ((tab64 c0).isSome → (tab64 c1).isSome → c2 = padByte → c3 ≠ padByte →
        b64DecPad [c0, c1, c2, c3] p = .error (p + 3))
      ∧ ∀ v0 v1, tab64 c0 = some v0 → tab64 c1 = some v1 → c3 = padByte →
        (c2 = padByte → b64DecPad [c0, c1, c2, c3] p = .ok [BitVec.ofNat 8 ((64 * v0 + v1) / 16)])
          ∧ ∀ v2, tab64 c2 = some v2 →
            b64DecPad [c0, c1, c2, c3] p =
              .ok [BitVec.ofNat 8 ((4096 * v0 + 64 * v1 + v2) / 1024),
                BitVec.ofNat 8 ((4096 * v0 + 64 * v1 + v2) / 4)]

/-! ### Registers (10_state.md, 20_memory.md) -/

/-- R21: ID, at offset 0x000, reads 0x42580007 at all times, and writes to it are ignored. -/
def Obligations.IdIsConstant : Prop :=
  ∀ s : State,
    (∀ v, decode (.host (.bus ⟨false, 4, 0x000#12, v⟩)) = .ok .rdId)
      ∧ exec .rdId s = .next { s with busData := 0x42580007#32, busError := false }
      ∧ ∀ v, decode (.host (.bus ⟨true, 4, 0x000#12, v⟩)) = .ok (.reservedAccess ⟨true, 4, 0x000#12, v⟩)
        ∧ exec (.reservedAccess ⟨true, 4, 0x000#12, v⟩) s = .next { s with busError := false }

/-- R24: a CONFIG write stores RADIX, CODEC and DIR and clears TABLE_VALID if RADIX changes; a write while busy
changes nothing and sets WIGN; a read returns the stored fields with the reserved bits 0. -/
def Obligations.ConfigStoresItsFields : Prop :=
  ∀ s : State,
    (∀ v, s.busy = false →
        ∃ t : State, exec (.wrConfig v) s = .next t
          ∧ t = { s with
              config := t.config, busError := false
              tableValid := if v.extractLsb' 0 9 = s.config.radix then s.tableValid else false }
          ∧ t.config.radix = v.extractLsb' 0 9 ∧ codecBits t.config.codec = v.extractLsb' 12 2
          ∧ dirBit t.config.dir = v.getLsbD 16)
      ∧ (∀ v, s.busy = true → exec (.wrConfig v) s = .next { s with wign := true, busError := false })
      ∧ ∃ r : Word, exec .rdConfig s = .next { s with busData := r, busError := false }
        ∧ r.extractLsb' 0 9 = s.config.radix ∧ r.extractLsb' 9 3 = 0#3
        ∧ r.extractLsb' 12 2 = codecBits s.config.codec ∧ r.extractLsb' 14 2 = 0#2
        ∧ r.getLsbD 16 = dirBit s.config.dir ∧ r.extractLsb' 17 15 = 0#15

/-- R25 (all but START's check, which is R107's): WINCFG stores WIN_GROUPS, any value, and reads it back with the
reserved bits 0. -/
def Obligations.WincfgStoresItsField : Prop :=
  ∀ s : State,
    (∀ v, s.busy = false →
        exec (.wrWincfg v) s = .next { s with winGroups := v.extractLsb' 0 16, busError := false })
      ∧ ∃ r : Word, exec .rdWincfg s = .next { s with busData := r, busError := false }
        ∧ r.extractLsb' 0 16 = s.winGroups ∧ r.extractLsb' 16 16 = 0#16

/-- R26: a write to CMD issues the command its word encodes (the CMD32 row it decodes to); a read returns 0 and issues
nothing. -/
def Obligations.CmdIssuesItsWord : Prop :=
  ∀ s : State,
    (∀ w, ∃ t : State, exec (decodeCommand w) s = .next t ∧ exec (.wrCmd w) s = .next { t with busError := false })
      ∧ exec .rdCmd s = .next { s with busData := 0, busError := false }

/-- R27: STATUS's fields; writes to it are ignored and do not set WIGN; it reads 0 after reset. -/
def Obligations.StatusHasItsFields : Prop :=
  (∀ s : State, ∃ r : Word, exec .rdStatus s = .next { s with busData := r, busError := false }
      ∧ (r.getLsbD 0 = true ↔ s.stage ∈ [.accRun, .fill, .emit, .flushErr, .drain])
      ∧ (r.getLsbD 1 = true ↔ s.stage = .done)
      ∧ (r.getLsbD 2 = true ↔ s.stage ∈ [.error, .flushErr, .drain])
      ∧ r.getLsbD 3 = s.tableValid ∧ r.getLsbD 4 = s.wign ∧ r.extractLsb' 5 3 = 0#3
      ∧ r.extractLsb' 8 4 = s.errcode ∧ r.extractLsb' 12 3 = stageBits s.stage ∧ r.extractLsb' 15 17 = 0#17)
    ∧ (∀ (s : State) (v : Word),
        decode (.host (.bus ⟨true, 4, 0x010#12, v⟩)) = .ok (.reservedAccess ⟨true, 4, 0x010#12, v⟩)
          ∧ exec (.reservedAccess ⟨true, 4, 0x010#12, v⟩) s = .next { s with busError := false })
    ∧ statusWord State.reset = 0

/-- R32, R33, R34, R64: ERRPOS, INCNT and OUTCNT read as their registers, without a side effect. -/
def Obligations.CountersReadAsTheyAre : Prop :=
  ∀ s : State,
    exec .rdErrpos s = .next { s with busData := s.errpos, busError := false }
      ∧ exec .rdIncnt s = .next { s with busData := s.incnt, busError := false }
      ∧ exec .rdOutcnt s = .next { s with busData := s.outcnt, busError := false }

/-- R36: an ALPHA write stores the four lanes, leaves every other cell, and clears TABLE_VALID; a write while busy
changes nothing and sets WIGN; a read gives the four cells, the lowest lane the lowest index. The premise is the
canonical form every step keeps (StepKeepsTheMemoryForm). -/
def Obligations.AlphaWordsAreFourCells : Prop :=
  ∀ (s : State) (j : BitVec 6), s.alpha.wf = true →
    (∀ v : Word, s.busy = false →
        ∃ t : State, exec (.wrAlpha j v) s = .next t
          ∧ t = { s with alpha := t.alpha, tableValid := false, busError := false }
          ∧ (∀ m, m < 4 → t.alpha.read (4 * j.toNat + m) = v.extractLsb' (8 * m) 8)
          ∧ ∀ a, (a < 4 * j.toNat ∨ 4 * j.toNat + 4 ≤ a) → t.alpha.read a = s.alpha.read a)
      ∧ (∀ v, s.busy = true → exec (.wrAlpha j v) s = .next { s with wign := true, busError := false })
      ∧ ∃ r : Word, exec (.rdAlpha j) s = .next { s with busData := r, busError := false }
        ∧ ∀ m, m < 4 → r.extractLsb' (8 * m) 8 = s.alpha.read (4 * j.toNat + m)

/-- R37: a DTAB word is sext_32 of its entry, for c = 0..127 and for c = 128..255: the digit, or 0xFFFFFFFF. -/
def Obligations.DtabReadsItsEntry : Prop :=
  ∀ (s : State) (c : BitVec 7),
    (∀ v, s.tabc.find c.toNat = some v →
        exec (.rdDtab c) s = .next { s with busData := BitVec.ofNat 32 v.toNat, busError := false })
      ∧ (s.tabc.find c.toNat = none →
        exec (.rdDtab c) s = .next { s with busData := 0xFFFFFFFF#32, busError := false })
      ∧ (∀ v, s.tabc.find (128 + c.toNat) = some v →
        exec (.rdDtabHi c) s = .next { s with busData := BitVec.ofNat 32 v.toNat, busError := false })
      ∧ (s.tabc.find (128 + c.toNat) = none →
        exec (.rdDtabHi c) s = .next { s with busData := 0xFFFFFFFF#32, busError := false })

/-- R62: an access that is not 32 bits wide, or not at a multiple of 4, gets a bus error, changes no state and, if a
read, returns 0. -/
def Obligations.ImproperAccessIsABusError : Prop :=
  ∀ (a : BusAccess) (s : State), (a.bytes ≠ 4 ∨ a.off.toNat % 4 ≠ 0) →
    decode (.host (.bus a)) = .ok (.reservedAccess a)
      ∧ (a.write = true → exec (.reservedAccess a) s = .next { s with busError := true })
      ∧ (a.write = false → exec (.reservedAccess a) s = .next { s with busData := 0, busError := true })

/-- R63: a read of an offset R22 does not list returns 0; a write to one, or to a read-only register, is ignored;
neither is an error and neither sets WIGN. -/
def Obligations.UnlistedOffsetsReadZero : Prop :=
  ∀ (s : State) (off : BitVec 12) (v : Word), off.toNat % 4 = 0 →
    ((0x020 ≤ off.toNat ∧ off.toNat < 0x100 ∨ 0x600 ≤ off.toNat) →
        decode (.host (.bus ⟨false, 4, off, v⟩)) = .ok (.reservedAccess ⟨false, 4, off, v⟩)
          ∧ exec (.reservedAccess ⟨false, 4, off, v⟩) s = .next { s with busData := 0, busError := false })
      ∧ ((off = 0x000#12 ∨ 0x010 ≤ off.toNat ∧ off.toNat < 0x100 ∨ 0x200 ≤ off.toNat) →
        decode (.host (.bus ⟨true, 4, off, v⟩)) = .ok (.reservedAccess ⟨true, 4, off, v⟩)
          ∧ exec (.reservedAccess ⟨true, 4, off, v⟩) s = .next { s with busError := false })

/-! ### The whole machine -/

/-- R54: what reset leaves, where the spec gives the value. -/
def Obligations.ResetLeavesTheStatedValues : Prop :=
  State.reset.config = ⟨0, .base64, .encode⟩ ∧ State.reset.winGroups = 0x100 ∧ State.reset.stage = .idle
    ∧ State.reset.tableValid = false ∧ State.reset.wign = false ∧ State.reset.errcode = 0
    ∧ statusWord State.reset = 0 ∧ State.reset.errpos = 0 ∧ State.reset.incnt = 0 ∧ State.reset.outcnt = 0
    ∧ State.reset.d = [] ∧ State.reset.wb = [] ∧ State.reset.oq = [] ∧ State.reset.wbase = 0
    ∧ State.reset.eoseen = false

/-- R230: the reset event sets every piece of state the spec gives a value to it, keeps what the host holds on its
side of the ports, and puts no token. What R54 leaves unspecified is a free value (assumption log 16). -/
def Obligations.ResetEventClearsTheBlock : Prop :=
  ∀ (s : State) (rest : List Turn), s.agenda = .reset :: rest →
    ∃ t : State, step s = .next t
      ∧ t = { s with
          agenda := rest, config := ⟨0, .base64, .encode⟩, winGroups := 0x100, stage := .idle, tableValid := false
          wign := false, errcode := 0, errpos := 0, incnt := 0, outcnt := 0, d := [], wb := [], wbase := 0, oq := []
          eoseen := false, alpha := t.alpha, tabc := t.tabc, tradix := t.tradix, lat := t.lat, carry := t.carry
          pacc := t.pacc, draws := t.draws }
      ∧ statusWord t = 0 ∧ MemoryInv t

/-- R30: WIGN is set by a guarded write that arrives while busy, cleared by reset and by a command other than NOP
accepted while not busy, and changed by no other event. -/
def Obligations.WignChangesOnlyAsStated : Prop :=
  ∀ (s t : State), step s = .next t →
    (∀ u rest, s.agenda = u :: rest →
        (isGuardedWrite u = true → s.busy = true → t.wign = true)
          ∧ (u = .reset → t.wign = false)
          ∧ (isCommandTurn u = true → s.busy = false → t.wign = false)
          ∧ ((isGuardedWrite u = false ∨ s.busy = false) → u ≠ .reset →
              (isCommandTurn u = false ∨ s.busy = true) → t.wign = s.wign))
      ∧ (s.agenda = [] → t.wign = s.wign)

/-- R43, R44: while BUSY = 1 no event but reset changes CONFIG, WINCFG, ALPHA, TABC, TRADIX, TABLE_VALID or the
latches. -/
def Obligations.BusyFreezesTheConfiguration : Prop :=
  ∀ (s t : State), s.busy = true → (∀ rest, s.agenda ≠ .reset :: rest) → step s = .next t →
    t.config = s.config ∧ t.winGroups = s.winGroups ∧ t.alpha = s.alpha ∧ t.tabc = s.tabc ∧ t.tradix = s.tradix
      ∧ t.tableValid = s.tableValid ∧ t.lat = s.lat

/-- R177: in IDLE, DONE and ERROR the engine takes no token and puts none, and STATE stays, until a command is
accepted or reset. -/
def Obligations.RestingStatesWaitForACommand : Prop :=
  ∀ (s t : State), (s.stage = .idle ∨ s.stage = .done ∨ s.stage = .error) →
    (∀ u rest, s.agenda = u :: rest → isCommandTurn u = false ∧ u ≠ .reset) → step s = .next t →
    t.stage = s.stage ∧ t.outTokens = s.outTokens
      ∧ ((∀ rest, s.agenda ≠ .withdraw :: rest) → s.inOffer <+: t.inOffer)

/-- R61, R70: a step delivers at most one token, after those delivered before, and only where the engine has the turn in
EMIT or FLUSH_ERR and OUT accepts; of the offered tokens it takes the oldest only where the engine has the turn in
ACC_RUN, FILL or DRAIN, adds one at the end only for a token the host offers, and takes all back only at the host's word
(R236). -/
def Obligations.TokensKeepTheirOrder : Prop :=
  ∀ (s t : State), step s = .next t →
    (t.outTokens = s.outTokens
        ∨ EngineHasTurn s ∧ (s.stage = .emit ∨ s.stage = .flushErr) ∧ (∃ e, s.outAccept = e :: t.outAccept)
          ∧ ∃ x, t.outTokens = s.outTokens ++ [x])
      ∧ (t.inOffer = s.inOffer
        ∨ EngineHasTurn s ∧ (s.stage = .accRun ∨ s.stage = .fill ∨ s.stage = .drain)
          ∧ (∃ x, s.inOffer = x :: t.inOffer)
        ∨ (∃ w rest, s.agenda = .word (.push w) :: rest) ∧ (∃ x, t.inOffer = s.inOffer ++ [x])
        ∨ (∃ rest, s.agenda = .withdraw :: rest) ∧ t.inOffer = [])

/-- R31, R32: ERRCODE and ERRPOS are 0 whenever ERR = 0, and ERRCODE is 1..7 whenever ERR = 1: every step keeps it. -/
def Obligations.StepKeepsTheErrorRegisters : Prop :=
  ∀ (s t : State), StatusInv s → step s = .next t → StatusInv t

/-- R38: while TABLE_VALID = 1, TRADIX = CONFIG.RADIX and TABC is the table of ALPHA[0..TRADIX-1]: every step keeps
it. -/
def Obligations.StepKeepsTheTableValid : Prop :=
  ∀ (s t : State), TableInv s → step s = .next t → TableInv t

/-- Every step keeps the canonical form of ALPHA and TABC (the model's data form of R35, R37: assumption log 11,
12). -/
def Obligations.StepKeepsTheMemoryForm : Prop :=
  ∀ (s t : State), MemoryInv s → step s = .next t → MemoryInv t

/-- The invariant of the whole machine, kept by every step: R31, R32, R38, the engine's states with their latches and
buffers (R88, R108, R167, R173, R214), D's digits (R45, R128) and the capacities (R45, R48, R49). -/
def Obligations.StepKeepsTheInvariant : Prop :=
  ∀ (s t : State), Inv s → step s = .next t → Inv t

/-- The state after reset meets the invariant. -/
def Obligations.ResetMeetsTheInvariant : Prop := Inv State.reset

/-- From a state that meets the invariant no step stops: every turn whose word is not an OUT word that is never
produced (R85) answers a next state (the two stops are the model's: assumption log 6, 7). -/
def Obligations.InvariantStepNeverStops : Prop :=
  ∀ s : State, Inv s → NextWordLegal s → ∃ t, step s = .next t

/-! ### Whole messages (43_stream.md R180, R181) -/

/-- R181 on the ACC path, the engine running alone: a message that Convert gives Ok(out) ends in DONE with exactly out
and End(ok) delivered, exactly the message and its End taken, and the counters its lengths; a faulting one ends in ERROR
with Convert's code and position, and End(err) is the only token delivered (R182). The agenda is empty, so only the
engine moves (assumption log 4). -/
def Obligations.AccMessageEndsAsConverted : Prop :=
  ∀ (s : State) (m : List Byte) (rest : List InToken), Begun s m rest → AccLatches s →
    (∀ out, convert s m = .ok out → out.length < s.outAccept.length → ∃ t, Reaches s t ∧ EndsOk s t m out rest)
      ∧ ∀ code pos, convert s m = .err code pos → s.outAccept ≠ [] →
        ∃ t, Reaches s t ∧ EndsErr s t code pos [] rest

/-- R181 on the PACK path, the engine running alone: whatever the window size, encoding and decoding, a message that
does not fault streams to the one-shot conversion of the whole message. The agenda is empty, so only the engine moves
(assumption log 4). -/
def Obligations.PackMessageIsWindowIndependent : Prop :=
  ∀ (s : State) (n : Nat) (m out : List Byte) (rest : List InToken), Begun s m rest → PackLatchesFor s.lat n →
    convert s m = .ok out → out.length < s.outAccept.length → ∃ t, Reaches s t ∧ EndsOk s t m out rest

/-- R181, R182 on the PACK path, decoding a message that faults: ERROR with Convert's code and position whatever the
window size, and the bytes before End(err) are the decoding of the windows completed before the faulting one. The agenda
is empty, so only the engine moves (assumption log 4). -/
def Obligations.PackDecodeFaultIsWindowIndependent : Prop :=
  ∀ (s : State) (n : Nat) (m : List Byte) (code : ErrCode) (pos : Nat) (rest : List InToken), Begun s m rest →
    PackLatchesFor s.lat n → s.lat.dir = .decode → convert s m = .err code pos → m.length < s.outAccept.length →
      ∃ t before, Reaches s t ∧ EndsErr s t code pos before rest
        ∧ decBody s.lat (activeTable s)
            (m.take ((s.lat.w - s.lat.nc) *
              min (pos / (s.lat.w - s.lat.nc))
                (if m.length < s.lat.w then 0 else (m.length - s.lat.nc) / (s.lat.w - s.lat.nc)))) 0 =
          .ok before
end

