-- ==== Sys2Proof/Laws/Memory.lean ====
section
/-! SUPPORT. The cell list behind ALPHA and TABC: a read after a write, and that every operation keeps the
canonical form. -/

namespace Sys2Proof.Machine

@[simp] theorem Memory.find_nil (a : Nat) : Memory.find [] a = none := rfl

theorem Memory.find_insert_same (m : Memory) (a : Nat) (v : Byte) : (m.insert a v).find a = some v := by
  induction m with
  | nil => simp [Memory.insert, Memory.find]
  | cons c m ih =>
    obtain ⟨b, w⟩ := c
    simp only [Memory.insert]
    split
    · simp [Memory.find]
    · split
      · simp [Memory.find]
      · rename_i h1 h2
        simp [Memory.find, h2, ih]

theorem Memory.find_insert_other (m : Memory) (a b : Nat) (v : Byte) (h : b ≠ a) :
    (m.insert a v).find b = m.find b := by
  induction m with
  | nil => simp [Memory.insert, Memory.find, h]
  | cons c m ih =>
    obtain ⟨e, w⟩ := c
    simp only [Memory.insert]
    split
    · simp [Memory.find, h]
    · split
      · rename_i h1 h2
        subst h2
        simp [Memory.find, h]
      · simp [Memory.find, ih]

theorem Memory.risingFrom_mono {m : Memory} {a b : Nat} (h : a ≤ b) (hm : m.risingFrom b = true) :
    m.risingFrom a = true := by
  cases m with
  | nil => rfl
  | cons c m =>
    obtain ⟨e, w⟩ := c
    simp only [Memory.risingFrom, Bool.and_eq_true, decide_eq_true_eq] at hm ⊢
    exact ⟨by omega, hm.2⟩

theorem Memory.rising_of_risingFrom {m : Memory} {a : Nat} (hm : m.risingFrom a = true) : m.rising = true := by
  cases m with
  | nil => rfl
  | cons c m =>
    simp only [Memory.risingFrom, Bool.and_eq_true] at hm
    exact hm.2

theorem Memory.find_of_risingFrom {m : Memory} {a b : Nat} (hm : m.risingFrom a = true) (h : b ≤ a) :
    m.find b = none := by
  induction m generalizing a with
  | nil => rfl
  | cons c m ih =>
    obtain ⟨e, w⟩ := c
    simp only [Memory.risingFrom, Bool.and_eq_true, decide_eq_true_eq] at hm
    simp only [Memory.find]
    rw [if_neg (by omega)]
    exact ih hm.2 (by omega)

theorem Memory.risingFrom_insert {m : Memory} {a b : Nat} (v : Byte) (hm : m.risingFrom a = true) (h : a < b) :
    (m.insert b v).risingFrom a = true := by
  induction m generalizing a with
  | nil => simp [Memory.insert, Memory.risingFrom, h]
  | cons c m ih =>
    obtain ⟨e, w⟩ := c
    simp only [Memory.risingFrom, Bool.and_eq_true, decide_eq_true_eq] at hm
    simp only [Memory.insert]
    split
    · rename_i h1
      simp [Memory.risingFrom, h, h1, hm.2]
    · split
      · rename_i h2
        subst h2
        simp [Memory.risingFrom, h, hm.2]
      · simp [Memory.risingFrom, hm.1, ih hm.2 (by omega)]

theorem Memory.rising_insert {m : Memory} (b : Nat) (v : Byte) (hm : m.rising = true) :
    (m.insert b v).rising = true := by
  cases m with
  | nil => rfl
  | cons c m =>
    obtain ⟨e, w⟩ := c
    simp only [Memory.rising] at hm
    simp only [Memory.insert]
    split
    · rename_i h1
      simp [Memory.rising, Memory.risingFrom, h1, hm]
    · split
      · rename_i h2
        subst h2
        simpa [Memory.rising] using hm
      · simpa [Memory.rising] using Memory.risingFrom_insert v hm (by omega)

theorem Memory.risingFrom_erase {m : Memory} {a : Nat} (b : Nat) (hm : m.risingFrom a = true) :
    (m.erase b).risingFrom a = true := by
  induction m generalizing a with
  | nil => rfl
  | cons c m ih =>
    obtain ⟨e, w⟩ := c
    simp only [Memory.risingFrom, Bool.and_eq_true, decide_eq_true_eq] at hm
    simp only [Memory.erase]
    split
    · exact Memory.risingFrom_mono (by omega) hm.2
    · simp [Memory.risingFrom, hm.1, ih hm.2]

theorem Memory.rising_erase {m : Memory} (b : Nat) (hm : m.rising = true) : (m.erase b).rising = true := by
  cases m with
  | nil => rfl
  | cons c m =>
    obtain ⟨e, w⟩ := c
    simp only [Memory.rising] at hm
    simp only [Memory.erase]
    split
    · exact Memory.rising_of_risingFrom hm
    · simpa [Memory.rising] using Memory.risingFrom_erase b hm

theorem Memory.mem_insert {m : Memory} {a : Nat} {v : Byte} {c : Host.Cell} (h : c ∈ m.insert a v) :
    c = (a, v) ∨ c ∈ m := by
  induction m with
  | nil => simpa [Memory.insert] using h
  | cons x m ih =>
    obtain ⟨e, w⟩ := x
    simp only [Memory.insert] at h
    split at h
    · simpa using h
    · split at h
      · simp only [List.mem_cons] at h ⊢
        tauto
      · simp only [List.mem_cons] at h ⊢
        rcases h with h | h
        · exact .inr (.inl h)
        · rcases ih h with h | h
          · exact .inl h
          · exact .inr (.inr h)

theorem Memory.mem_erase {m : Memory} {a : Nat} {c : Host.Cell} (h : c ∈ m.erase a) : c ∈ m := by
  induction m with
  | nil => simp [Memory.erase] at h
  | cons x m ih =>
    obtain ⟨e, w⟩ := x
    simp only [Memory.erase] at h
    split at h
    · exact List.mem_cons_of_mem _ h
    · simp only [List.mem_cons] at h ⊢
      exact h.imp id ih

theorem Memory.tableWf_iff (m : Memory) :
    m.tableWf = true ↔ m.rising = true ∧ ∀ c ∈ m, c.1 < 256 := by
  simp [Memory.tableWf, List.all_eq_true]

theorem Memory.wf_iff (m : Memory) :
    m.wf = true ↔ m.rising = true ∧ (∀ c ∈ m, c.1 < 256) ∧ ∀ c ∈ m, c.2 ≠ unlistedAlpha := by
  simp [Memory.wf, Memory.tableWf, List.all_eq_true, and_assoc]

theorem Memory.rising_of_wf {m : Memory} (h : m.wf = true) : m.rising = true := ((Memory.wf_iff m).1 h).1

/-- Listing a valid entry keeps TABC's form. -/
theorem Memory.insert_keeps_tableWf {m : Memory} {a : Nat} (v : Byte) (ha : a < 256) (h : m.tableWf = true) :
    (m.insert a v).tableWf = true := by
  rw [Memory.tableWf_iff] at h ⊢
  refine ⟨Memory.rising_insert a v h.1, fun c hc => ?_⟩
  rcases Memory.mem_insert hc with rfl | hc
  · exact ha
  · exact h.2 c hc

/-- A write keeps ALPHA's canonical form. -/
theorem Memory.write_keeps_wf {m : Memory} {a : Nat} (v : Byte) (ha : a < 256) (h : m.wf = true) :
    (m.write a v).wf = true := by
  rw [Memory.wf_iff] at h ⊢
  obtain ⟨h1, h2, h3⟩ := h
  unfold Memory.write
  split
  · exact ⟨Memory.rising_erase a h1, fun c hc => h2 c (Memory.mem_erase hc), fun c hc => h3 c (Memory.mem_erase hc)⟩
  · rename_i hv
    refine ⟨Memory.rising_insert a v h1, fun c hc => ?_, fun c hc => ?_⟩ <;> rcases Memory.mem_insert hc with rfl | hc
    · exact ha
    · exact h2 c hc
    · exact hv
    · exact h3 c hc

/-- A write leaves every other cell alone. -/
theorem Memory.find_erase_other (m : Memory) (a b : Nat) (h : b ≠ a) : (m.erase a).find b = m.find b := by
  induction m with
  | nil => rfl
  | cons x m ih =>
    obtain ⟨e, w⟩ := x
    simp only [Memory.erase]
    split
    · rename_i h2
      subst h2
      simp [Memory.find, h]
    · simp [Memory.find, ih]

theorem Memory.find_erase_same {m : Memory} (a : Nat) (h : m.rising = true) : (m.erase a).find a = none := by
  cases m with
  | nil => rfl
  | cons x m =>
    obtain ⟨e, w⟩ := x
    simp only [Memory.rising] at h
    simp only [Memory.erase]
    split
    · rename_i h2
      subst h2
      exact Memory.find_of_risingFrom h (Nat.le_refl _)
    · rename_i h2
      simp only [Memory.find, if_neg h2]
      clear h2
      induction m generalizing e with
      | nil => rfl
      | cons y m ih =>
        obtain ⟨f, u⟩ := y
        simp only [Memory.risingFrom, Bool.and_eq_true, decide_eq_true_eq] at h
        simp only [Memory.erase]
        split
        · rename_i h3
          subst h3
          exact Memory.find_of_risingFrom h.2 (Nat.le_refl _)
        · rename_i h3
          simp only [Memory.find, if_neg h3]
          exact ih _ h.2

/-- Read after write, same cell. -/
theorem Memory.read_write_same {m : Memory} (a : Nat) (v : Byte) (h : m.rising = true) :
    (m.write a v).read a = v := by
  unfold Memory.write Memory.read
  split
  · rename_i hv
    simp [Memory.find_erase_same a h, hv]
  · simp [Memory.find_insert_same]

/-- Read after write, another cell. -/
theorem Memory.read_write_other (m : Memory) (a b : Nat) (v : Byte) (h : b ≠ a) :
    (m.write a v).read b = m.read b := by
  unfold Memory.write Memory.read
  split
  · rw [Memory.find_erase_other m a b h]
  · rw [Memory.find_insert_other m a b v h]

/-- Storing an ALPHA word keeps the canonical form. -/
theorem storeAlphaWord_keeps_wf {m : Memory} {j : Nat} (v : Word) (hj : j < 64) (h : m.wf = true) :
    (storeAlphaWord m j v).wf = true := by
  unfold storeAlphaWord
  exact Memory.write_keeps_wf _ (by omega) (Memory.write_keeps_wf _ (by omega)
    (Memory.write_keeps_wf _ (by omega) (Memory.write_keeps_wf _ (by omega) h)))

end Sys2Proof.Machine
end

