-- ==== Sys2Proof/Laws/State.lean ====
section
/-! SUPPORT. For each shared operation on the state, one lemma per field (each true by rfl), so that no later proof
unfolds a record update. -/

namespace Sys2Proof.Machine

@[simp] theorem raiseFault_params (cls : FaultClass) (code : ErrCode) (pos : Nat) (s : State) : (raiseFault cls code pos s).params = s.params := rfl
@[simp] theorem raiseFault_config (cls : FaultClass) (code : ErrCode) (pos : Nat) (s : State) : (raiseFault cls code pos s).config = s.config := rfl
@[simp] theorem raiseFault_winGroups (cls : FaultClass) (code : ErrCode) (pos : Nat) (s : State) : (raiseFault cls code pos s).winGroups = s.winGroups := rfl
@[simp] theorem raiseFault_stage (cls : FaultClass) (code : ErrCode) (pos : Nat) (s : State) : (raiseFault cls code pos s).stage = faultStage cls := rfl
@[simp] theorem raiseFault_tableValid (cls : FaultClass) (code : ErrCode) (pos : Nat) (s : State) : (raiseFault cls code pos s).tableValid = s.tableValid := rfl
@[simp] theorem raiseFault_wign (cls : FaultClass) (code : ErrCode) (pos : Nat) (s : State) : (raiseFault cls code pos s).wign = s.wign := rfl
@[simp] theorem raiseFault_errcode (cls : FaultClass) (code : ErrCode) (pos : Nat) (s : State) : (raiseFault cls code pos s).errcode = errCodeBits code := rfl
@[simp] theorem raiseFault_errpos (cls : FaultClass) (code : ErrCode) (pos : Nat) (s : State) : (raiseFault cls code pos s).errpos = BitVec.ofNat 32 pos := rfl
@[simp] theorem raiseFault_incnt (cls : FaultClass) (code : ErrCode) (pos : Nat) (s : State) : (raiseFault cls code pos s).incnt = s.incnt := rfl
@[simp] theorem raiseFault_outcnt (cls : FaultClass) (code : ErrCode) (pos : Nat) (s : State) : (raiseFault cls code pos s).outcnt = s.outcnt := rfl
@[simp] theorem raiseFault_alpha (cls : FaultClass) (code : ErrCode) (pos : Nat) (s : State) : (raiseFault cls code pos s).alpha = s.alpha := rfl
@[simp] theorem raiseFault_tabc (cls : FaultClass) (code : ErrCode) (pos : Nat) (s : State) : (raiseFault cls code pos s).tabc = s.tabc := rfl
@[simp] theorem raiseFault_tradix (cls : FaultClass) (code : ErrCode) (pos : Nat) (s : State) : (raiseFault cls code pos s).tradix = s.tradix := rfl
@[simp] theorem raiseFault_lat (cls : FaultClass) (code : ErrCode) (pos : Nat) (s : State) : (raiseFault cls code pos s).lat = s.lat := rfl
@[simp] theorem raiseFault_d (cls : FaultClass) (code : ErrCode) (pos : Nat) (s : State) : (raiseFault cls code pos s).d = s.d := rfl
@[simp] theorem raiseFault_carry (cls : FaultClass) (code : ErrCode) (pos : Nat) (s : State) : (raiseFault cls code pos s).carry = s.carry := rfl
@[simp] theorem raiseFault_pacc (cls : FaultClass) (code : ErrCode) (pos : Nat) (s : State) : (raiseFault cls code pos s).pacc = s.pacc := rfl
@[simp] theorem raiseFault_wb (cls : FaultClass) (code : ErrCode) (pos : Nat) (s : State) : (raiseFault cls code pos s).wb = s.wb := rfl
@[simp] theorem raiseFault_wbase (cls : FaultClass) (code : ErrCode) (pos : Nat) (s : State) : (raiseFault cls code pos s).wbase = s.wbase := rfl
@[simp] theorem raiseFault_oq (cls : FaultClass) (code : ErrCode) (pos : Nat) (s : State) : (raiseFault cls code pos s).oq = s.oq := rfl
@[simp] theorem raiseFault_eoseen (cls : FaultClass) (code : ErrCode) (pos : Nat) (s : State) : (raiseFault cls code pos s).eoseen = s.eoseen := rfl
@[simp] theorem raiseFault_inOffer (cls : FaultClass) (code : ErrCode) (pos : Nat) (s : State) : (raiseFault cls code pos s).inOffer = s.inOffer := rfl
@[simp] theorem raiseFault_outAccept (cls : FaultClass) (code : ErrCode) (pos : Nat) (s : State) : (raiseFault cls code pos s).outAccept = s.outAccept := rfl
@[simp] theorem raiseFault_outTokens (cls : FaultClass) (code : ErrCode) (pos : Nat) (s : State) : (raiseFault cls code pos s).outTokens = s.outTokens := rfl
@[simp] theorem raiseFault_busData (cls : FaultClass) (code : ErrCode) (pos : Nat) (s : State) : (raiseFault cls code pos s).busData = s.busData := rfl
@[simp] theorem raiseFault_busError (cls : FaultClass) (code : ErrCode) (pos : Nat) (s : State) : (raiseFault cls code pos s).busError = s.busError := rfl
@[simp] theorem raiseFault_assertFailed (cls : FaultClass) (code : ErrCode) (pos : Nat) (s : State) : (raiseFault cls code pos s).assertFailed = s.assertFailed := rfl
@[simp] theorem raiseFault_agenda (cls : FaultClass) (code : ErrCode) (pos : Nat) (s : State) : (raiseFault cls code pos s).agenda = s.agenda := rfl
@[simp] theorem raiseFault_draws (cls : FaultClass) (code : ErrCode) (pos : Nat) (s : State) : (raiseFault cls code pos s).draws = s.draws := rfl

@[simp] theorem acceptCommand_params (s : State) : (acceptCommand s).params = s.params := rfl
@[simp] theorem acceptCommand_config (s : State) : (acceptCommand s).config = s.config := rfl
@[simp] theorem acceptCommand_winGroups (s : State) : (acceptCommand s).winGroups = s.winGroups := rfl
@[simp] theorem acceptCommand_stage (s : State) : (acceptCommand s).stage = s.stage := rfl
@[simp] theorem acceptCommand_tableValid (s : State) : (acceptCommand s).tableValid = s.tableValid := rfl
@[simp] theorem acceptCommand_wign (s : State) : (acceptCommand s).wign = false := rfl
@[simp] theorem acceptCommand_errcode (s : State) : (acceptCommand s).errcode = 0 := rfl
@[simp] theorem acceptCommand_errpos (s : State) : (acceptCommand s).errpos = 0 := rfl
@[simp] theorem acceptCommand_incnt (s : State) : (acceptCommand s).incnt = s.incnt := rfl
@[simp] theorem acceptCommand_outcnt (s : State) : (acceptCommand s).outcnt = s.outcnt := rfl
@[simp] theorem acceptCommand_alpha (s : State) : (acceptCommand s).alpha = s.alpha := rfl
@[simp] theorem acceptCommand_tabc (s : State) : (acceptCommand s).tabc = s.tabc := rfl
@[simp] theorem acceptCommand_tradix (s : State) : (acceptCommand s).tradix = s.tradix := rfl
@[simp] theorem acceptCommand_lat (s : State) : (acceptCommand s).lat = s.lat := rfl
@[simp] theorem acceptCommand_d (s : State) : (acceptCommand s).d = s.d := rfl
@[simp] theorem acceptCommand_carry (s : State) : (acceptCommand s).carry = s.carry := rfl
@[simp] theorem acceptCommand_pacc (s : State) : (acceptCommand s).pacc = s.pacc := rfl
@[simp] theorem acceptCommand_wb (s : State) : (acceptCommand s).wb = s.wb := rfl
@[simp] theorem acceptCommand_wbase (s : State) : (acceptCommand s).wbase = s.wbase := rfl
@[simp] theorem acceptCommand_oq (s : State) : (acceptCommand s).oq = s.oq := rfl
@[simp] theorem acceptCommand_eoseen (s : State) : (acceptCommand s).eoseen = s.eoseen := rfl
@[simp] theorem acceptCommand_inOffer (s : State) : (acceptCommand s).inOffer = s.inOffer := rfl
@[simp] theorem acceptCommand_outAccept (s : State) : (acceptCommand s).outAccept = s.outAccept := rfl
@[simp] theorem acceptCommand_outTokens (s : State) : (acceptCommand s).outTokens = s.outTokens := rfl
@[simp] theorem acceptCommand_busData (s : State) : (acceptCommand s).busData = s.busData := rfl
@[simp] theorem acceptCommand_busError (s : State) : (acceptCommand s).busError = s.busError := rfl
@[simp] theorem acceptCommand_assertFailed (s : State) : (acceptCommand s).assertFailed = s.assertFailed := rfl
@[simp] theorem acceptCommand_agenda (s : State) : (acceptCommand s).agenda = s.agenda := rfl
@[simp] theorem acceptCommand_draws (s : State) : (acceptCommand s).draws = s.draws := rfl

@[simp] theorem loseCarry_params (s : State) : (loseCarry s).params = s.params := rfl
@[simp] theorem loseCarry_config (s : State) : (loseCarry s).config = s.config := rfl
@[simp] theorem loseCarry_winGroups (s : State) : (loseCarry s).winGroups = s.winGroups := rfl
@[simp] theorem loseCarry_stage (s : State) : (loseCarry s).stage = s.stage := rfl
@[simp] theorem loseCarry_tableValid (s : State) : (loseCarry s).tableValid = s.tableValid := rfl
@[simp] theorem loseCarry_wign (s : State) : (loseCarry s).wign = s.wign := rfl
@[simp] theorem loseCarry_errcode (s : State) : (loseCarry s).errcode = s.errcode := rfl
@[simp] theorem loseCarry_errpos (s : State) : (loseCarry s).errpos = s.errpos := rfl
@[simp] theorem loseCarry_incnt (s : State) : (loseCarry s).incnt = s.incnt := rfl
@[simp] theorem loseCarry_outcnt (s : State) : (loseCarry s).outcnt = s.outcnt := rfl
@[simp] theorem loseCarry_alpha (s : State) : (loseCarry s).alpha = s.alpha := rfl
@[simp] theorem loseCarry_tabc (s : State) : (loseCarry s).tabc = s.tabc := rfl
@[simp] theorem loseCarry_tradix (s : State) : (loseCarry s).tradix = s.tradix := rfl
@[simp] theorem loseCarry_lat (s : State) : (loseCarry s).lat = s.lat := rfl
@[simp] theorem loseCarry_d (s : State) : (loseCarry s).d = s.d := rfl
@[simp] theorem loseCarry_carry (s : State) : (loseCarry s).carry = Config.freeCarry s.draws := rfl
@[simp] theorem loseCarry_pacc (s : State) : (loseCarry s).pacc = s.pacc := rfl
@[simp] theorem loseCarry_wb (s : State) : (loseCarry s).wb = s.wb := rfl
@[simp] theorem loseCarry_wbase (s : State) : (loseCarry s).wbase = s.wbase := rfl
@[simp] theorem loseCarry_oq (s : State) : (loseCarry s).oq = s.oq := rfl
@[simp] theorem loseCarry_eoseen (s : State) : (loseCarry s).eoseen = s.eoseen := rfl
@[simp] theorem loseCarry_inOffer (s : State) : (loseCarry s).inOffer = s.inOffer := rfl
@[simp] theorem loseCarry_outAccept (s : State) : (loseCarry s).outAccept = s.outAccept := rfl
@[simp] theorem loseCarry_outTokens (s : State) : (loseCarry s).outTokens = s.outTokens := rfl
@[simp] theorem loseCarry_busData (s : State) : (loseCarry s).busData = s.busData := rfl
@[simp] theorem loseCarry_busError (s : State) : (loseCarry s).busError = s.busError := rfl
@[simp] theorem loseCarry_assertFailed (s : State) : (loseCarry s).assertFailed = s.assertFailed := rfl
@[simp] theorem loseCarry_agenda (s : State) : (loseCarry s).agenda = s.agenda := rfl
@[simp] theorem loseCarry_draws (s : State) : (loseCarry s).draws = s.draws + 1 := rfl

@[simp] theorem losePacc_params (s : State) : (losePacc s).params = s.params := rfl
@[simp] theorem losePacc_config (s : State) : (losePacc s).config = s.config := rfl
@[simp] theorem losePacc_winGroups (s : State) : (losePacc s).winGroups = s.winGroups := rfl
@[simp] theorem losePacc_stage (s : State) : (losePacc s).stage = s.stage := rfl
@[simp] theorem losePacc_tableValid (s : State) : (losePacc s).tableValid = s.tableValid := rfl
@[simp] theorem losePacc_wign (s : State) : (losePacc s).wign = s.wign := rfl
@[simp] theorem losePacc_errcode (s : State) : (losePacc s).errcode = s.errcode := rfl
@[simp] theorem losePacc_errpos (s : State) : (losePacc s).errpos = s.errpos := rfl
@[simp] theorem losePacc_incnt (s : State) : (losePacc s).incnt = s.incnt := rfl
@[simp] theorem losePacc_outcnt (s : State) : (losePacc s).outcnt = s.outcnt := rfl
@[simp] theorem losePacc_alpha (s : State) : (losePacc s).alpha = s.alpha := rfl
@[simp] theorem losePacc_tabc (s : State) : (losePacc s).tabc = s.tabc := rfl
@[simp] theorem losePacc_tradix (s : State) : (losePacc s).tradix = s.tradix := rfl
@[simp] theorem losePacc_lat (s : State) : (losePacc s).lat = s.lat := rfl
@[simp] theorem losePacc_d (s : State) : (losePacc s).d = s.d := rfl
@[simp] theorem losePacc_carry (s : State) : (losePacc s).carry = s.carry := rfl
@[simp] theorem losePacc_pacc (s : State) : (losePacc s).pacc = Config.freePacc s.draws := rfl
@[simp] theorem losePacc_wb (s : State) : (losePacc s).wb = s.wb := rfl
@[simp] theorem losePacc_wbase (s : State) : (losePacc s).wbase = s.wbase := rfl
@[simp] theorem losePacc_oq (s : State) : (losePacc s).oq = s.oq := rfl
@[simp] theorem losePacc_eoseen (s : State) : (losePacc s).eoseen = s.eoseen := rfl
@[simp] theorem losePacc_inOffer (s : State) : (losePacc s).inOffer = s.inOffer := rfl
@[simp] theorem losePacc_outAccept (s : State) : (losePacc s).outAccept = s.outAccept := rfl
@[simp] theorem losePacc_outTokens (s : State) : (losePacc s).outTokens = s.outTokens := rfl
@[simp] theorem losePacc_busData (s : State) : (losePacc s).busData = s.busData := rfl
@[simp] theorem losePacc_busError (s : State) : (losePacc s).busError = s.busError := rfl
@[simp] theorem losePacc_assertFailed (s : State) : (losePacc s).assertFailed = s.assertFailed := rfl
@[simp] theorem losePacc_agenda (s : State) : (losePacc s).agenda = s.agenda := rfl
@[simp] theorem losePacc_draws (s : State) : (losePacc s).draws = s.draws + 1 := rfl

@[simp] theorem loseDigits_params (s : State) : (loseDigits s).params = s.params := rfl
@[simp] theorem loseDigits_config (s : State) : (loseDigits s).config = s.config := rfl
@[simp] theorem loseDigits_winGroups (s : State) : (loseDigits s).winGroups = s.winGroups := rfl
@[simp] theorem loseDigits_stage (s : State) : (loseDigits s).stage = s.stage := rfl
@[simp] theorem loseDigits_tableValid (s : State) : (loseDigits s).tableValid = s.tableValid := rfl
@[simp] theorem loseDigits_wign (s : State) : (loseDigits s).wign = s.wign := rfl
@[simp] theorem loseDigits_errcode (s : State) : (loseDigits s).errcode = s.errcode := rfl
@[simp] theorem loseDigits_errpos (s : State) : (loseDigits s).errpos = s.errpos := rfl
@[simp] theorem loseDigits_incnt (s : State) : (loseDigits s).incnt = s.incnt := rfl
@[simp] theorem loseDigits_outcnt (s : State) : (loseDigits s).outcnt = s.outcnt := rfl
@[simp] theorem loseDigits_alpha (s : State) : (loseDigits s).alpha = s.alpha := rfl
@[simp] theorem loseDigits_tabc (s : State) : (loseDigits s).tabc = s.tabc := rfl
@[simp] theorem loseDigits_tradix (s : State) : (loseDigits s).tradix = s.tradix := rfl
@[simp] theorem loseDigits_lat (s : State) : (loseDigits s).lat = s.lat := rfl
@[simp] theorem loseDigits_d (s : State) : (loseDigits s).d = (Config.freeDigits s.draws).take s.params.digitCap := rfl
@[simp] theorem loseDigits_carry (s : State) : (loseDigits s).carry = s.carry := rfl
@[simp] theorem loseDigits_pacc (s : State) : (loseDigits s).pacc = s.pacc := rfl
@[simp] theorem loseDigits_wb (s : State) : (loseDigits s).wb = s.wb := rfl
@[simp] theorem loseDigits_wbase (s : State) : (loseDigits s).wbase = s.wbase := rfl
@[simp] theorem loseDigits_oq (s : State) : (loseDigits s).oq = s.oq := rfl
@[simp] theorem loseDigits_eoseen (s : State) : (loseDigits s).eoseen = s.eoseen := rfl
@[simp] theorem loseDigits_inOffer (s : State) : (loseDigits s).inOffer = s.inOffer := rfl
@[simp] theorem loseDigits_outAccept (s : State) : (loseDigits s).outAccept = s.outAccept := rfl
@[simp] theorem loseDigits_outTokens (s : State) : (loseDigits s).outTokens = s.outTokens := rfl
@[simp] theorem loseDigits_busData (s : State) : (loseDigits s).busData = s.busData := rfl
@[simp] theorem loseDigits_busError (s : State) : (loseDigits s).busError = s.busError := rfl
@[simp] theorem loseDigits_assertFailed (s : State) : (loseDigits s).assertFailed = s.assertFailed := rfl
@[simp] theorem loseDigits_agenda (s : State) : (loseDigits s).agenda = s.agenda := rfl
@[simp] theorem loseDigits_draws (s : State) : (loseDigits s).draws = s.draws + 1 := rfl

@[simp] theorem offerToken_params (t : InToken) (s : State) : (offerToken t s).params = s.params := rfl
@[simp] theorem offerToken_config (t : InToken) (s : State) : (offerToken t s).config = s.config := rfl
@[simp] theorem offerToken_winGroups (t : InToken) (s : State) : (offerToken t s).winGroups = s.winGroups := rfl
@[simp] theorem offerToken_stage (t : InToken) (s : State) : (offerToken t s).stage = s.stage := rfl
@[simp] theorem offerToken_tableValid (t : InToken) (s : State) : (offerToken t s).tableValid = s.tableValid := rfl
@[simp] theorem offerToken_wign (t : InToken) (s : State) : (offerToken t s).wign = s.wign := rfl
@[simp] theorem offerToken_errcode (t : InToken) (s : State) : (offerToken t s).errcode = s.errcode := rfl
@[simp] theorem offerToken_errpos (t : InToken) (s : State) : (offerToken t s).errpos = s.errpos := rfl
@[simp] theorem offerToken_incnt (t : InToken) (s : State) : (offerToken t s).incnt = s.incnt := rfl
@[simp] theorem offerToken_outcnt (t : InToken) (s : State) : (offerToken t s).outcnt = s.outcnt := rfl
@[simp] theorem offerToken_alpha (t : InToken) (s : State) : (offerToken t s).alpha = s.alpha := rfl
@[simp] theorem offerToken_tabc (t : InToken) (s : State) : (offerToken t s).tabc = s.tabc := rfl
@[simp] theorem offerToken_tradix (t : InToken) (s : State) : (offerToken t s).tradix = s.tradix := rfl
@[simp] theorem offerToken_lat (t : InToken) (s : State) : (offerToken t s).lat = s.lat := rfl
@[simp] theorem offerToken_d (t : InToken) (s : State) : (offerToken t s).d = s.d := rfl
@[simp] theorem offerToken_carry (t : InToken) (s : State) : (offerToken t s).carry = s.carry := rfl
@[simp] theorem offerToken_pacc (t : InToken) (s : State) : (offerToken t s).pacc = s.pacc := rfl
@[simp] theorem offerToken_wb (t : InToken) (s : State) : (offerToken t s).wb = s.wb := rfl
@[simp] theorem offerToken_wbase (t : InToken) (s : State) : (offerToken t s).wbase = s.wbase := rfl
@[simp] theorem offerToken_oq (t : InToken) (s : State) : (offerToken t s).oq = s.oq := rfl
@[simp] theorem offerToken_eoseen (t : InToken) (s : State) : (offerToken t s).eoseen = s.eoseen := rfl
@[simp] theorem offerToken_inOffer (t : InToken) (s : State) : (offerToken t s).inOffer = s.inOffer ++ [t] := rfl
@[simp] theorem offerToken_outAccept (t : InToken) (s : State) : (offerToken t s).outAccept = s.outAccept := rfl
@[simp] theorem offerToken_outTokens (t : InToken) (s : State) : (offerToken t s).outTokens = s.outTokens := rfl
@[simp] theorem offerToken_busData (t : InToken) (s : State) : (offerToken t s).busData = s.busData := rfl
@[simp] theorem offerToken_busError (t : InToken) (s : State) : (offerToken t s).busError = s.busError := rfl
@[simp] theorem offerToken_assertFailed (t : InToken) (s : State) : (offerToken t s).assertFailed = s.assertFailed := rfl
@[simp] theorem offerToken_agenda (t : InToken) (s : State) : (offerToken t s).agenda = s.agenda := rfl
@[simp] theorem offerToken_draws (t : InToken) (s : State) : (offerToken t s).draws = s.draws := rfl

@[simp] theorem takeToken_params (s : State) : (takeToken s).params = s.params := rfl
@[simp] theorem takeToken_config (s : State) : (takeToken s).config = s.config := rfl
@[simp] theorem takeToken_winGroups (s : State) : (takeToken s).winGroups = s.winGroups := rfl
@[simp] theorem takeToken_stage (s : State) : (takeToken s).stage = s.stage := rfl
@[simp] theorem takeToken_tableValid (s : State) : (takeToken s).tableValid = s.tableValid := rfl
@[simp] theorem takeToken_wign (s : State) : (takeToken s).wign = s.wign := rfl
@[simp] theorem takeToken_errcode (s : State) : (takeToken s).errcode = s.errcode := rfl
@[simp] theorem takeToken_errpos (s : State) : (takeToken s).errpos = s.errpos := rfl
@[simp] theorem takeToken_incnt (s : State) : (takeToken s).incnt = s.incnt := rfl
@[simp] theorem takeToken_outcnt (s : State) : (takeToken s).outcnt = s.outcnt := rfl
@[simp] theorem takeToken_alpha (s : State) : (takeToken s).alpha = s.alpha := rfl
@[simp] theorem takeToken_tabc (s : State) : (takeToken s).tabc = s.tabc := rfl
@[simp] theorem takeToken_tradix (s : State) : (takeToken s).tradix = s.tradix := rfl
@[simp] theorem takeToken_lat (s : State) : (takeToken s).lat = s.lat := rfl
@[simp] theorem takeToken_d (s : State) : (takeToken s).d = s.d := rfl
@[simp] theorem takeToken_carry (s : State) : (takeToken s).carry = s.carry := rfl
@[simp] theorem takeToken_pacc (s : State) : (takeToken s).pacc = s.pacc := rfl
@[simp] theorem takeToken_wb (s : State) : (takeToken s).wb = s.wb := rfl
@[simp] theorem takeToken_wbase (s : State) : (takeToken s).wbase = s.wbase := rfl
@[simp] theorem takeToken_oq (s : State) : (takeToken s).oq = s.oq := rfl
@[simp] theorem takeToken_eoseen (s : State) : (takeToken s).eoseen = s.eoseen := rfl
@[simp] theorem takeToken_inOffer (s : State) : (takeToken s).inOffer = s.inOffer.tail := rfl
@[simp] theorem takeToken_outAccept (s : State) : (takeToken s).outAccept = s.outAccept := rfl
@[simp] theorem takeToken_outTokens (s : State) : (takeToken s).outTokens = s.outTokens := rfl
@[simp] theorem takeToken_busData (s : State) : (takeToken s).busData = s.busData := rfl
@[simp] theorem takeToken_busError (s : State) : (takeToken s).busError = s.busError := rfl
@[simp] theorem takeToken_assertFailed (s : State) : (takeToken s).assertFailed = s.assertFailed := rfl
@[simp] theorem takeToken_agenda (s : State) : (takeToken s).agenda = s.agenda := rfl
@[simp] theorem takeToken_draws (s : State) : (takeToken s).draws = s.draws := rfl

@[simp] theorem takeByte_params (s : State) : (takeByte s).params = s.params := rfl
@[simp] theorem takeByte_config (s : State) : (takeByte s).config = s.config := rfl
@[simp] theorem takeByte_winGroups (s : State) : (takeByte s).winGroups = s.winGroups := rfl
@[simp] theorem takeByte_stage (s : State) : (takeByte s).stage = s.stage := rfl
@[simp] theorem takeByte_tableValid (s : State) : (takeByte s).tableValid = s.tableValid := rfl
@[simp] theorem takeByte_wign (s : State) : (takeByte s).wign = s.wign := rfl
@[simp] theorem takeByte_errcode (s : State) : (takeByte s).errcode = s.errcode := rfl
@[simp] theorem takeByte_errpos (s : State) : (takeByte s).errpos = s.errpos := rfl
@[simp] theorem takeByte_incnt (s : State) : (takeByte s).incnt = s.incnt + 1 := rfl
@[simp] theorem takeByte_outcnt (s : State) : (takeByte s).outcnt = s.outcnt := rfl
@[simp] theorem takeByte_alpha (s : State) : (takeByte s).alpha = s.alpha := rfl
@[simp] theorem takeByte_tabc (s : State) : (takeByte s).tabc = s.tabc := rfl
@[simp] theorem takeByte_tradix (s : State) : (takeByte s).tradix = s.tradix := rfl
@[simp] theorem takeByte_lat (s : State) : (takeByte s).lat = s.lat := rfl
@[simp] theorem takeByte_d (s : State) : (takeByte s).d = s.d := rfl
@[simp] theorem takeByte_carry (s : State) : (takeByte s).carry = s.carry := rfl
@[simp] theorem takeByte_pacc (s : State) : (takeByte s).pacc = s.pacc := rfl
@[simp] theorem takeByte_wb (s : State) : (takeByte s).wb = s.wb := rfl
@[simp] theorem takeByte_wbase (s : State) : (takeByte s).wbase = s.wbase := rfl
@[simp] theorem takeByte_oq (s : State) : (takeByte s).oq = s.oq := rfl
@[simp] theorem takeByte_eoseen (s : State) : (takeByte s).eoseen = s.eoseen := rfl
@[simp] theorem takeByte_inOffer (s : State) : (takeByte s).inOffer = s.inOffer.tail := rfl
@[simp] theorem takeByte_outAccept (s : State) : (takeByte s).outAccept = s.outAccept := rfl
@[simp] theorem takeByte_outTokens (s : State) : (takeByte s).outTokens = s.outTokens := rfl
@[simp] theorem takeByte_busData (s : State) : (takeByte s).busData = s.busData := rfl
@[simp] theorem takeByte_busError (s : State) : (takeByte s).busError = s.busError := rfl
@[simp] theorem takeByte_assertFailed (s : State) : (takeByte s).assertFailed = s.assertFailed := rfl
@[simp] theorem takeByte_agenda (s : State) : (takeByte s).agenda = s.agenda := rfl
@[simp] theorem takeByte_draws (s : State) : (takeByte s).draws = s.draws := rfl

@[simp] theorem acceptToken_params (e : Option OutToken) (s : State) : (acceptToken e s).params = s.params := rfl
@[simp] theorem acceptToken_config (e : Option OutToken) (s : State) : (acceptToken e s).config = s.config := rfl
@[simp] theorem acceptToken_winGroups (e : Option OutToken) (s : State) : (acceptToken e s).winGroups = s.winGroups := rfl
@[simp] theorem acceptToken_stage (e : Option OutToken) (s : State) : (acceptToken e s).stage = s.stage := rfl
@[simp] theorem acceptToken_tableValid (e : Option OutToken) (s : State) : (acceptToken e s).tableValid = s.tableValid := rfl
@[simp] theorem acceptToken_wign (e : Option OutToken) (s : State) : (acceptToken e s).wign = s.wign := rfl
@[simp] theorem acceptToken_errcode (e : Option OutToken) (s : State) : (acceptToken e s).errcode = s.errcode := rfl
@[simp] theorem acceptToken_errpos (e : Option OutToken) (s : State) : (acceptToken e s).errpos = s.errpos := rfl
@[simp] theorem acceptToken_incnt (e : Option OutToken) (s : State) : (acceptToken e s).incnt = s.incnt := rfl
@[simp] theorem acceptToken_outcnt (e : Option OutToken) (s : State) : (acceptToken e s).outcnt = s.outcnt := rfl
@[simp] theorem acceptToken_alpha (e : Option OutToken) (s : State) : (acceptToken e s).alpha = s.alpha := rfl
@[simp] theorem acceptToken_tabc (e : Option OutToken) (s : State) : (acceptToken e s).tabc = s.tabc := rfl
@[simp] theorem acceptToken_tradix (e : Option OutToken) (s : State) : (acceptToken e s).tradix = s.tradix := rfl
@[simp] theorem acceptToken_lat (e : Option OutToken) (s : State) : (acceptToken e s).lat = s.lat := rfl
@[simp] theorem acceptToken_d (e : Option OutToken) (s : State) : (acceptToken e s).d = s.d := rfl
@[simp] theorem acceptToken_carry (e : Option OutToken) (s : State) : (acceptToken e s).carry = s.carry := rfl
@[simp] theorem acceptToken_pacc (e : Option OutToken) (s : State) : (acceptToken e s).pacc = s.pacc := rfl
@[simp] theorem acceptToken_wb (e : Option OutToken) (s : State) : (acceptToken e s).wb = s.wb := rfl
@[simp] theorem acceptToken_wbase (e : Option OutToken) (s : State) : (acceptToken e s).wbase = s.wbase := rfl
@[simp] theorem acceptToken_oq (e : Option OutToken) (s : State) : (acceptToken e s).oq = s.oq := rfl
@[simp] theorem acceptToken_eoseen (e : Option OutToken) (s : State) : (acceptToken e s).eoseen = s.eoseen := rfl
@[simp] theorem acceptToken_inOffer (e : Option OutToken) (s : State) : (acceptToken e s).inOffer = s.inOffer := rfl
@[simp] theorem acceptToken_outAccept (e : Option OutToken) (s : State) : (acceptToken e s).outAccept = s.outAccept ++ [e] := rfl
@[simp] theorem acceptToken_outTokens (e : Option OutToken) (s : State) : (acceptToken e s).outTokens = s.outTokens := rfl
@[simp] theorem acceptToken_busData (e : Option OutToken) (s : State) : (acceptToken e s).busData = s.busData := rfl
@[simp] theorem acceptToken_busError (e : Option OutToken) (s : State) : (acceptToken e s).busError = s.busError := rfl
@[simp] theorem acceptToken_assertFailed (e : Option OutToken) (s : State) : (acceptToken e s).assertFailed = s.assertFailed := rfl
@[simp] theorem acceptToken_agenda (e : Option OutToken) (s : State) : (acceptToken e s).agenda = s.agenda := rfl
@[simp] theorem acceptToken_draws (e : Option OutToken) (s : State) : (acceptToken e s).draws = s.draws := rfl

@[simp] theorem busRead_params (v : Word) (s : State) : (busRead v s).params = s.params := rfl
@[simp] theorem busRead_config (v : Word) (s : State) : (busRead v s).config = s.config := rfl
@[simp] theorem busRead_winGroups (v : Word) (s : State) : (busRead v s).winGroups = s.winGroups := rfl
@[simp] theorem busRead_stage (v : Word) (s : State) : (busRead v s).stage = s.stage := rfl
@[simp] theorem busRead_tableValid (v : Word) (s : State) : (busRead v s).tableValid = s.tableValid := rfl
@[simp] theorem busRead_wign (v : Word) (s : State) : (busRead v s).wign = s.wign := rfl
@[simp] theorem busRead_errcode (v : Word) (s : State) : (busRead v s).errcode = s.errcode := rfl
@[simp] theorem busRead_errpos (v : Word) (s : State) : (busRead v s).errpos = s.errpos := rfl
@[simp] theorem busRead_incnt (v : Word) (s : State) : (busRead v s).incnt = s.incnt := rfl
@[simp] theorem busRead_outcnt (v : Word) (s : State) : (busRead v s).outcnt = s.outcnt := rfl
@[simp] theorem busRead_alpha (v : Word) (s : State) : (busRead v s).alpha = s.alpha := rfl
@[simp] theorem busRead_tabc (v : Word) (s : State) : (busRead v s).tabc = s.tabc := rfl
@[simp] theorem busRead_tradix (v : Word) (s : State) : (busRead v s).tradix = s.tradix := rfl
@[simp] theorem busRead_lat (v : Word) (s : State) : (busRead v s).lat = s.lat := rfl
@[simp] theorem busRead_d (v : Word) (s : State) : (busRead v s).d = s.d := rfl
@[simp] theorem busRead_carry (v : Word) (s : State) : (busRead v s).carry = s.carry := rfl
@[simp] theorem busRead_pacc (v : Word) (s : State) : (busRead v s).pacc = s.pacc := rfl
@[simp] theorem busRead_wb (v : Word) (s : State) : (busRead v s).wb = s.wb := rfl
@[simp] theorem busRead_wbase (v : Word) (s : State) : (busRead v s).wbase = s.wbase := rfl
@[simp] theorem busRead_oq (v : Word) (s : State) : (busRead v s).oq = s.oq := rfl
@[simp] theorem busRead_eoseen (v : Word) (s : State) : (busRead v s).eoseen = s.eoseen := rfl
@[simp] theorem busRead_inOffer (v : Word) (s : State) : (busRead v s).inOffer = s.inOffer := rfl
@[simp] theorem busRead_outAccept (v : Word) (s : State) : (busRead v s).outAccept = s.outAccept := rfl
@[simp] theorem busRead_outTokens (v : Word) (s : State) : (busRead v s).outTokens = s.outTokens := rfl
@[simp] theorem busRead_busData (v : Word) (s : State) : (busRead v s).busData = v := rfl
@[simp] theorem busRead_busError (v : Word) (s : State) : (busRead v s).busError = false := rfl
@[simp] theorem busRead_assertFailed (v : Word) (s : State) : (busRead v s).assertFailed = s.assertFailed := rfl
@[simp] theorem busRead_agenda (v : Word) (s : State) : (busRead v s).agenda = s.agenda := rfl
@[simp] theorem busRead_draws (v : Word) (s : State) : (busRead v s).draws = s.draws := rfl

@[simp] theorem busWrote_params (s : State) : (busWrote s).params = s.params := rfl
@[simp] theorem busWrote_config (s : State) : (busWrote s).config = s.config := rfl
@[simp] theorem busWrote_winGroups (s : State) : (busWrote s).winGroups = s.winGroups := rfl
@[simp] theorem busWrote_stage (s : State) : (busWrote s).stage = s.stage := rfl
@[simp] theorem busWrote_tableValid (s : State) : (busWrote s).tableValid = s.tableValid := rfl
@[simp] theorem busWrote_wign (s : State) : (busWrote s).wign = s.wign := rfl
@[simp] theorem busWrote_errcode (s : State) : (busWrote s).errcode = s.errcode := rfl
@[simp] theorem busWrote_errpos (s : State) : (busWrote s).errpos = s.errpos := rfl
@[simp] theorem busWrote_incnt (s : State) : (busWrote s).incnt = s.incnt := rfl
@[simp] theorem busWrote_outcnt (s : State) : (busWrote s).outcnt = s.outcnt := rfl
@[simp] theorem busWrote_alpha (s : State) : (busWrote s).alpha = s.alpha := rfl
@[simp] theorem busWrote_tabc (s : State) : (busWrote s).tabc = s.tabc := rfl
@[simp] theorem busWrote_tradix (s : State) : (busWrote s).tradix = s.tradix := rfl
@[simp] theorem busWrote_lat (s : State) : (busWrote s).lat = s.lat := rfl
@[simp] theorem busWrote_d (s : State) : (busWrote s).d = s.d := rfl
@[simp] theorem busWrote_carry (s : State) : (busWrote s).carry = s.carry := rfl
@[simp] theorem busWrote_pacc (s : State) : (busWrote s).pacc = s.pacc := rfl
@[simp] theorem busWrote_wb (s : State) : (busWrote s).wb = s.wb := rfl
@[simp] theorem busWrote_wbase (s : State) : (busWrote s).wbase = s.wbase := rfl
@[simp] theorem busWrote_oq (s : State) : (busWrote s).oq = s.oq := rfl
@[simp] theorem busWrote_eoseen (s : State) : (busWrote s).eoseen = s.eoseen := rfl
@[simp] theorem busWrote_inOffer (s : State) : (busWrote s).inOffer = s.inOffer := rfl
@[simp] theorem busWrote_outAccept (s : State) : (busWrote s).outAccept = s.outAccept := rfl
@[simp] theorem busWrote_outTokens (s : State) : (busWrote s).outTokens = s.outTokens := rfl
@[simp] theorem busWrote_busData (s : State) : (busWrote s).busData = s.busData := rfl
@[simp] theorem busWrote_busError (s : State) : (busWrote s).busError = false := rfl
@[simp] theorem busWrote_assertFailed (s : State) : (busWrote s).assertFailed = s.assertFailed := rfl
@[simp] theorem busWrote_agenda (s : State) : (busWrote s).agenda = s.agenda := rfl
@[simp] theorem busWrote_draws (s : State) : (busWrote s).draws = s.draws := rfl

@[simp] theorem invalidateTable_params (s : State) : (invalidateTable s).params = s.params := rfl
@[simp] theorem invalidateTable_config (s : State) : (invalidateTable s).config = s.config := rfl
@[simp] theorem invalidateTable_winGroups (s : State) : (invalidateTable s).winGroups = s.winGroups := rfl
@[simp] theorem invalidateTable_stage (s : State) : (invalidateTable s).stage = s.stage := rfl
@[simp] theorem invalidateTable_tableValid (s : State) : (invalidateTable s).tableValid = false := rfl
@[simp] theorem invalidateTable_wign (s : State) : (invalidateTable s).wign = s.wign := rfl
@[simp] theorem invalidateTable_errcode (s : State) : (invalidateTable s).errcode = s.errcode := rfl
@[simp] theorem invalidateTable_errpos (s : State) : (invalidateTable s).errpos = s.errpos := rfl
@[simp] theorem invalidateTable_incnt (s : State) : (invalidateTable s).incnt = s.incnt := rfl
@[simp] theorem invalidateTable_outcnt (s : State) : (invalidateTable s).outcnt = s.outcnt := rfl
@[simp] theorem invalidateTable_alpha (s : State) : (invalidateTable s).alpha = s.alpha := rfl
@[simp] theorem invalidateTable_tabc (s : State) : (invalidateTable s).tabc = s.tabc := rfl
@[simp] theorem invalidateTable_tradix (s : State) : (invalidateTable s).tradix = s.tradix := rfl
@[simp] theorem invalidateTable_lat (s : State) : (invalidateTable s).lat = s.lat := rfl
@[simp] theorem invalidateTable_d (s : State) : (invalidateTable s).d = s.d := rfl
@[simp] theorem invalidateTable_carry (s : State) : (invalidateTable s).carry = s.carry := rfl
@[simp] theorem invalidateTable_pacc (s : State) : (invalidateTable s).pacc = s.pacc := rfl
@[simp] theorem invalidateTable_wb (s : State) : (invalidateTable s).wb = s.wb := rfl
@[simp] theorem invalidateTable_wbase (s : State) : (invalidateTable s).wbase = s.wbase := rfl
@[simp] theorem invalidateTable_oq (s : State) : (invalidateTable s).oq = s.oq := rfl
@[simp] theorem invalidateTable_eoseen (s : State) : (invalidateTable s).eoseen = s.eoseen := rfl
@[simp] theorem invalidateTable_inOffer (s : State) : (invalidateTable s).inOffer = s.inOffer := rfl
@[simp] theorem invalidateTable_outAccept (s : State) : (invalidateTable s).outAccept = s.outAccept := rfl
@[simp] theorem invalidateTable_outTokens (s : State) : (invalidateTable s).outTokens = s.outTokens := rfl
@[simp] theorem invalidateTable_busData (s : State) : (invalidateTable s).busData = s.busData := rfl
@[simp] theorem invalidateTable_busError (s : State) : (invalidateTable s).busError = s.busError := rfl
@[simp] theorem invalidateTable_assertFailed (s : State) : (invalidateTable s).assertFailed = s.assertFailed := rfl
@[simp] theorem invalidateTable_agenda (s : State) : (invalidateTable s).agenda = s.agenda := rfl
@[simp] theorem invalidateTable_draws (s : State) : (invalidateTable s).draws = s.draws := rfl

end Sys2Proof.Machine
end

