-- ==== Sys2Proof/Laws/Ops.lean ====
section
/-! SUPPORT. For each shared operation, one lemma that says once everything it can do. -/

namespace Sys2Proof.Machine

/-! ### The ports -/

/-- `Out.put` happens exactly when the consumer has an acceptance standing. -/
theorem putToken_some {t : OutToken} {s s' : State} :
    putToken t s = some s' ↔
      ∃ e rest, s.outAccept = e :: rest ∧
        s' = { s with
          outAccept := rest, outTokens := s.outTokens ++ [t], assertFailed := s.assertFailed || breaks e t } := by
  unfold putToken
  cases h : s.outAccept with
  | nil => simp
  | cons e rest =>
    constructor
    · intro hs
      exact ⟨e, rest, rfl, (Option.some.inj hs).symm⟩
    · rintro ⟨e', rest', he, rfl⟩
      cases he
      rfl

theorem putToken_none {t : OutToken} {s : State} : putToken t s = none ↔ s.outAccept = [] := by
  unfold putToken
  cases s.outAccept <;> simp

/-! ### Commands and register writes -/

/-- A guarded write: ignored with WIGN while busy, its effect otherwise. -/
theorem writeUnlessBusy_cases (effect : State → State) (s : State) :
    (s.busy = true ∧ writeUnlessBusy effect s = { s with wign := true })
      ∨ (s.busy = false ∧ writeUnlessBusy effect s = effect s) := by
  unfold writeUnlessBusy
  cases h : s.busy <;> simp

/-- Everything a write to CMD can do (R101). -/
theorem issueCommand_cases (w : Word) (s : State) :
    (w = 0 ∧ issueCommand w s = s)
      ∨ (w ≠ 0 ∧ s.busy = true ∧ issueCommand w s = { s with wign := true })
      ∨ (w = 1 ∧ s.busy = false ∧ issueCommand w s = buildEffect (acceptCommand s))
      ∨ (w = 2 ∧ s.busy = false ∧ issueCommand w s = startEffect (acceptCommand s))
      ∨ (w ≠ 0 ∧ w ≠ 1 ∧ w ≠ 2 ∧ s.busy = false
        ∧ issueCommand w s = raiseFault .command .illegalCommand 0 (acceptCommand s)) := by
  by_cases h0 : w = 0
  · subst h0
    refine .inl ⟨rfl, ?_⟩
    unfold issueCommand
    cases s.busy <;> simp
  · refine .inr ?_
    cases hb : s.busy
    · by_cases h1 : w = 1
      · subst h1
        exact .inr (.inl ⟨rfl, rfl, by simp [issueCommand, hb, commandEffect]⟩)
      · by_cases h2 : w = 2
        · subst h2
          exact .inr (.inr (.inl ⟨rfl, rfl, by simp [issueCommand, hb, commandEffect]⟩))
        · exact .inr (.inr (.inr ⟨h0, h1, h2, rfl, by simp_all [issueCommand, commandEffect]⟩))
    · exact .inl ⟨h0, rfl, by simp_all [issueCommand]⟩

/-- Everything BUILD can do after its acceptance (R104, R105). -/
theorem buildEffect_cases (s : State) :
    ((s.config.radix.toNat < 2 ∨ 256 < s.config.radix.toNat)
        ∧ buildEffect s = raiseFault .command .invalidRadix 0 (invalidateTable s))
      ∨ (2 ≤ s.config.radix.toNat ∧ s.config.radix.toNat ≤ 256
        ∧ ((∃ j, firstDuplicate [] (symbols s.alpha s.config.radix.toNat) 0 = some j
              ∧ buildEffect s = raiseFault .command .duplicateSymbol j (invalidateTable s))
          ∨ (firstDuplicate [] (symbols s.alpha s.config.radix.toNat) 0 = none
              ∧ buildEffect s =
                { s with
                  tabc := buildTable (symbols s.alpha s.config.radix.toNat) 0 [], tradix := s.config.radix
                  tableValid := true, stage := .idle }))) := by
  unfold buildEffect
  dsimp only
  by_cases h : s.config.radix.toNat < 2 ∨ 256 < s.config.radix.toNat
  · rw [if_pos h]
    exact .inl ⟨h, rfl⟩
  · rw [if_neg h]
    refine .inr ⟨by omega, by omega, ?_⟩
    cases firstDuplicate [] (symbols s.alpha s.config.radix.toNat) 0 with
    | none => exact .inr ⟨rfl, rfl⟩
    | some j => exact .inl ⟨j, rfl, rfl⟩

/-- Everything START can do after its acceptance (R107, R108). -/
theorem startEffect_cases (s : State) :
    (∃ code, startChecks s = .error code ∧ startEffect s = raiseFault .command code 0 s)
      ∨ ∃ lat, startChecks s = .ok lat ∧
        startEffect s =
          { s with
            lat := lat, d := [], wb := [], wbase := 0, oq := [], eoseen := false, incnt := 0, outcnt := 0
            stage := startStage lat.path } := by
  unfold startEffect
  cases h : startChecks s with
  | error code => exact .inl ⟨code, rfl, rfl⟩
  | ok lat => exact .inr ⟨lat, rfl, rfl⟩

/-- What START's checks latch when they pass (R107, R108). -/
theorem startChecks_ok {s : State} {lat : Latches} (h : startChecks s = .ok lat) :
    s.config.codec ≠ .reserved ∧ (s.config.codec = .generic → s.tableValid = true)
      ∧ lat.codec = s.config.codec ∧ lat.dir = s.config.dir
      ∧ lat.radix = startRadix s.config.codec s.tradix
      ∧ ((geometry lat.radix = none
            ∧ lat = { s.lat with
                codec := s.config.codec, dir := s.config.dir, radix := lat.radix, path := .acc })
        ∨ ∃ geo, geometry lat.radix = some geo ∧ lat.path = .pack ∧ lat.k = geo.k ∧ lat.nb = geo.nb
            ∧ lat.nc = geo.nc ∧ lat.g = groupLength s.config.dir geo ∧ 2 ≤ s.winGroups.toNat
            ∧ lat.w = s.winGroups.toNat * lat.g ∧ lat.w ≤ s.params.wbufCap) := by
  unfold startChecks at h
  split at h
  · cases h
  · rename_i hr
    split at h
    · cases h
    · rename_i hg
      have htv : s.config.codec = .generic → s.tableValid = true := by
        intro hc
        cases ht : s.tableValid
        · exact absurd ⟨hc, ht⟩ hg
        · rfl
      dsimp only at h
      split at h
      · rename_i hgeo
        cases h
        exact ⟨hr, htv, rfl, rfl, rfl, .inl ⟨hgeo, rfl⟩⟩
      · rename_i geo hgeo
        split at h
        · cases h
        · rename_i hw
          cases h
          exact ⟨hr, htv, rfl, rfl, rfl, .inr ⟨geo, hgeo, rfl, rfl, rfl, rfl, rfl, by omega, rfl, by
            show s.winGroups.toNat * groupLength s.config.dir geo ≤ s.params.wbufCap
            omega⟩⟩

/-! ### Conversions -/

/-- An ACC step's outcome: the new digits, or a capacity fault exactly when an append would pass DIGIT_CAP. -/
theorem accStep_cases (mul base cap : Nat) (d : List Byte) (carry : Nat) :
    (accStep mul base cap d carry = some (accDigits mul base d carry)
        ∧ ((accDigits mul base d carry).length ≤ d.length ∨ (accDigits mul base d carry).length ≤ cap))
      ∨ (accStep mul base cap d carry = none
        ∧ d.length < (accDigits mul base d carry).length ∧ cap < (accDigits mul base d carry).length) := by
  unfold accStep
  split
  · rename_i h
    exact .inr ⟨rfl, h.1, h.2⟩
  · exact .inl ⟨rfl, by omega⟩

theorem accCells_length (mul base : Nat) (d : List Byte) (carry : Nat) :
    (accCells mul base d carry).1.length = d.length := by
  induction d generalizing carry with
  | nil => rfl
  | cons x xs ih => simp [accCells, ih]

theorem packDigits_length (k n a : Nat) : (packDigits k n a).length = n := by
  induction n generalizing a with
  | zero => rfl
  | succ n ih => simp [packDigits, ih]

theorem packEncGroup_length (alphabet : Nat → Byte) (k nc : Nat) (b : List Byte) :
    (packEncGroup alphabet k nc b).length = nc := by
  simp [packEncGroup, packDigits_length]

theorem packEncShort_length (alphabet : Nat → Byte) (k nc : Nat) (b : List Byte) :
    (packEncShort alphabet k nc b).length = nc := by
  simp [packEncShort, packDigits_length]

theorem packUnload_length (nb a : Nat) : (packUnload nb a).length = nb := by
  simp [packUnload]

theorem packDecGroup_ok_length {table : Byte → Option Nat} {k nb : Nat} {c out : List Byte} {s : Nat}
    (h : packDecGroup table k nb c s = .ok out) : out.length = nb := by
  unfold packDecGroup at h
  split at h
  · cases h
  · cases h
    exact packUnload_length _ _

/-! ### Reset draws -/

theorem foldl_write_wf (f : Nat → Byte) (l : List Nat) (m : Memory) (hm : m.wf = true) (hl : ∀ a ∈ l, a < 256) :
    (l.foldl (fun m a => m.write a (f a)) m).wf = true := by
  induction l generalizing m with
  | nil => exact hm
  | cons a l ih =>
    exact ih _ (Memory.write_keeps_wf _ (hl a (by simp)) hm) (fun b hb => hl b (List.mem_cons_of_mem _ hb))

/-- ALPHA after a reset event has the canonical form. -/
theorem drawAlpha_wf (n : Nat) : (drawAlpha n).wf = true :=
  foldl_write_wf _ _ _ rfl (by simp)

theorem foldl_entries_wf (f : Nat → Option Byte) (l : List Nat) (m : Memory) (hm : m.tableWf = true)
    (hl : ∀ a ∈ l, a < 256) :
    (l.foldl (fun m c => match f c with | none => m | some v => m.insert c v) m).tableWf = true := by
  induction l generalizing m with
  | nil => exact hm
  | cons a l ih =>
    refine ih _ ?_ (fun b hb => hl b (List.mem_cons_of_mem _ hb))
    dsimp only
    split
    · exact hm
    · exact Memory.insert_keeps_tableWf _ (hl a (by simp)) hm

/-- TABC after a reset event has its form. -/
theorem drawTable_wf (n : Nat) : (drawTable n).tableWf = true :=
  foldl_entries_wf _ _ _ rfl (by simp)

theorem buildTable_wf (cells : List Byte) (i : Nat) (m : Memory) (h : m.tableWf = true) :
    (buildTable cells i m).tableWf = true := by
  induction cells generalizing i m with
  | nil => exact h
  | cons c cs ih => exact ih _ _ (Memory.insert_keeps_tableWf _ c.isLt h)

/-! ### A step -/

/-- A fetched word runs its instruction, or the engine has nothing to do. -/
theorem runWord_next {f : FetchWord} {s t : State} (h : runWord f s = .next t) :
    (∃ i, decode f = .ok i ∧ exec i s = .next t) ∨ (decode f = .error .noEngineStep ∧ t = s) := by
  unfold runWord at h
  split at h
  · exact .inl ⟨_, ‹_›, h⟩
  · cases h
    exact .inr ⟨‹_›, rfl⟩
  · cases h
  · cases h

/-- The engine's turn runs the selected operation, or changes nothing. -/
theorem engineTurn_next {s t : State} (h : engineTurn s = .next t) :
    (∃ sel i, selector s = some sel ∧ decodeSelector sel = .ok i ∧ exec i s = .next t) ∨ t = s := by
  unfold engineTurn at h
  split at h
  · cases h
    exact .inr rfl
  · rcases runWord_next h with ⟨i, hi, he⟩ | ⟨_, ht⟩
    · exact .inl ⟨_, i, ‹_›, hi, he⟩
    · exact .inr ht

/-- Everything one step can do. -/
theorem step_next {s t : State} (h : step s = .next t) :
    (s.agenda = [] ∧ engineTurn s = .next t)
      ∨ (∃ w rest, s.agenda = .word w :: rest ∧ runWord (.host w) { s with agenda := rest } = .next t)
      ∨ (∃ rest, s.agenda = .engine :: rest ∧ engineTurn { s with agenda := rest } = .next t)
      ∨ (∃ rest, s.agenda = .accept :: rest ∧ t = acceptToken none { s with agenda := rest })
      ∨ (∃ rest, s.agenda = .withdraw :: rest ∧ t = { s with agenda := rest, inOffer := [] })
      ∨ (∃ v rest, s.agenda = .check v :: rest
          ∧ t = { s with agenda := rest, assertFailed := s.assertFailed || s.busData != v })
      ∨ (∃ w rest, s.agenda = .wait w :: rest ∧ waitHolds w s = true ∧ t = { s with agenda := rest })
      ∨ (∃ w rest, s.agenda = .wait w :: rest ∧ waitHolds w s = false ∧ engineTurn s = .next t)
      ∨ (∃ st rest, s.agenda = .poll st :: rest
          ∧ t = busRead (statusWord s) { s with agenda := pollAgenda st rest s })
      ∨ (∃ rest, s.agenda = .reset :: rest ∧ t = resetEvent { s with agenda := rest }) := by
  unfold step takeTurn at h
  cases ha : s.agenda with
  | nil =>
    rw [ha] at h
    exact .inl ⟨rfl, h⟩
  | cons u rest =>
    refine .inr ?_
    rw [ha] at h
    cases u with
    | word w => exact .inl ⟨w, rest, rfl, h⟩
    | engine => exact .inr (.inl ⟨rest, rfl, h⟩)
    | accept => exact .inr (.inr (.inl ⟨rest, rfl, (Host.Outcome.next.inj h).symm⟩))
    | withdraw => exact .inr (.inr (.inr (.inl ⟨rest, rfl, (Host.Outcome.next.inj h).symm⟩)))
    | check v => exact .inr (.inr (.inr (.inr (.inl ⟨v, rest, rfl, (Host.Outcome.next.inj h).symm⟩))))
    | wait w =>
      cases hw : waitHolds w s
      · simp only [hw, Bool.false_eq_true, if_false] at h
        exact .inr (.inr (.inr (.inr (.inr (.inr (.inl ⟨w, rest, rfl, hw, h⟩))))))
      · simp only [hw, if_true] at h
        exact .inr (.inr (.inr (.inr (.inr (.inl ⟨w, rest, rfl, hw, (Host.Outcome.next.inj h).symm⟩)))))
    | poll st =>
      exact .inr (.inr (.inr (.inr (.inr (.inr (.inr (.inl ⟨st, rest, rfl, (Host.Outcome.next.inj h).symm⟩)))))))
    | reset =>
      exact .inr (.inr (.inr (.inr (.inr (.inr (.inr (.inr ⟨rest, rfl, (Host.Outcome.next.inj h).symm⟩)))))))

/-- R177: in IDLE, DONE and ERROR the selector has no operation, whatever the latches and conditions. -/
theorem decode_resting {st : Stage} (h : st = .idle ∨ st = .done ∨ st = .error) (dir : Dir) (path : Path)
    (codec : Codec) (oqNonEmpty eoseen : Bool) :
    decode (.engine ⟨dselOf st false dir path codec, oqNonEmpty, eoseen⟩) = .error .noEngineStep := by
  have hs : stageOfBits ((dselOf st false dir path codec).extractLsb' 5 3) = st := by
    rcases h with rfl | rfl | rfl <;> cases dir <;> cases path <;> cases codec <;> decide
  simp only [decode, decodeSelector, hs]
  rcases h with rfl | rfl | rfl <;> rfl

/-- R177: an engine turn in IDLE, DONE and ERROR changes nothing. -/
theorem engineTurn_resting {s : State} (h : s.stage = .idle ∨ s.stage = .done ∨ s.stage = .error) :
    engineTurn s = .next s := by
  have ht : tokenBit s = some false := by rcases h with h | h | h <;> simp [tokenBit, h]
  simp [engineTurn, selector, ht, runWord, decode_resting h]

/-- R61: an engine turn whose operation needs a token that is not offered changes nothing. -/
theorem engineTurn_waiting {s : State} (h : s.stage = .accRun ∨ s.stage = .fill ∨ s.stage = .drain)
    (hi : s.inOffer = []) : engineTurn s = .next s := by
  have ht : tokenBit s = none := by rcases h with h | h | h <;> simp [tokenBit, h, offeredEnd, hi]
  simp [engineTurn, selector, ht]

end Sys2Proof.Machine
end

