-- ==== Sys2Proof/Laws/Convert.lean ====
section
/-! SUPPORT. What the two datapaths compute, as numbers, and what each engine effect that converts can do. -/

namespace Sys2Proof.Machine

/-! ### The ACC unit -/

theorem valueLE_append (base : Nat) (xs ys : List Byte) :
    valueLE base (xs ++ ys) = valueLE base xs + base ^ xs.length * valueLE base ys := by
  induction xs with
  | nil => simp [valueLE]
  | cons x xs ih =>
    simp only [List.cons_append, valueLE, ih, List.length_cons, pow_succ]
    ring

theorem toNat_digit {base t : Nat} (h0 : 0 < base) (h : base ≤ 256) : (BitVec.ofNat 8 (t % base)).toNat = t % base := by
  have := Nat.mod_lt t h0
  rw [BitVec.toNat_ofNat]
  exact Nat.mod_eq_of_lt (by omega)

/-- R128's step: the cells and the CARRY that is left stand for mul times the number, plus the CARRY before. -/
theorem accCells_value (mul : Nat) {base : Nat} (h0 : 0 < base) (h : base ≤ 256) (d : List Byte) (c : Nat) :
    valueLE base (accCells mul base d c).1 + base ^ d.length * (accCells mul base d c).2 =
      c + mul * valueLE base d := by
  induction d generalizing c with
  | nil => simp [accCells, valueLE]
  | cons x xs ih =>
    simp only [accCells, valueLE, toNat_digit h0 h, List.length_cons, pow_succ]
    have hi := ih ((c + x.toNat * mul) / base)
    have hd := Nat.mod_add_div (c + x.toNat * mul) base
    nlinarith [hi, hd]

/-- The rewritten cells are digits of the base. -/
theorem accCells_digits (mul : Nat) {base : Nat} (h0 : 0 < base) (h : base ≤ 256) (d : List Byte) (c : Nat) :
    ∀ x ∈ (accCells mul base d c).1, x.toNat < base := by
  induction d generalizing c with
  | nil => simp [accCells]
  | cons y ys ih =>
    intro x hx
    simp only [accCells, List.mem_cons] at hx
    rcases hx with rfl | hx
    · rw [toNat_digit h0 h]
      exact Nat.mod_lt _ h0
    · exact ih _ x hx

/-- The appended cells stand for the CARRY that was left, when there is fuel for it. -/
theorem accAppend_value {base : Nat} (h2 : 2 ≤ base) (h : base ≤ 256) (fuel c : Nat) (hc : c < base ^ fuel) :
    valueLE base (accAppend base fuel c) = c := by
  induction fuel generalizing c with
  | zero =>
    have : c = 0 := by simpa using hc
    simp [accAppend, valueLE, this]
  | succ fuel ih =>
    unfold accAppend
    split
    · simp [valueLE, *]
    · simp only [valueLE, toNat_digit (by omega) h]
      rw [ih (c / base) (Nat.div_lt_of_lt_mul (by rwa [pow_succ, Nat.mul_comm] at hc))]
      exact Nat.mod_add_div c base

/-- The appended cells are digits of the base, and the most significant one is not 0. -/
theorem accAppend_canonical {base : Nat} (h2 : 2 ≤ base) (h : base ≤ 256) (fuel c : Nat) (hc : c < base ^ fuel) :
    canonicalDigits base (accAppend base fuel c) ∧ (accAppend base fuel c = [] → c = 0) := by
  induction fuel generalizing c with
  | zero =>
    have : c = 0 := by simpa using hc
    simp [accAppend, canonicalDigits, this]
  | succ fuel ih =>
    unfold accAppend
    split
    · simp [canonicalDigits, *]
    · rename_i hne
      obtain ⟨⟨hd, hl⟩, hn⟩ := ih (c / base) (Nat.div_lt_of_lt_mul (by rwa [pow_succ, Nat.mul_comm] at hc))
      refine ⟨⟨?_, ?_⟩, by simp⟩
      · intro x hx
        rcases List.mem_cons.1 hx with rfl | hx
        · rw [toNat_digit (by omega) h]
          exact Nat.mod_lt _ (by omega)
        · exact hd x hx
      · cases hr : accAppend base fuel (c / base) with
        | nil =>
          have hz := hn hr
          have hmod := Nat.mod_add_div c base
          rw [hz] at hmod
          intro hx
          have hx' : BitVec.ofNat 8 (c % base) = 0 := by simpa using hx
          have := congrArg BitVec.toNat hx'
          rw [toNat_digit (by omega) h] at this
          simp at this
          omega
        | cons y ys =>
          rw [List.getLast?_cons_cons, ← hr]
          exact hl

/-! ### The PACK unit -/

/-- Everything the accumulation of R144 can do: it stops at the first character without a digit, or takes them all. -/
theorem packAccumulate_cases (table : Byte → Option Nat) (k : Nat) (cs : List Byte) (pos a : Nat) :
    (∃ i, i < cs.length ∧ table (cs.getD i 0) = none ∧ (∀ j, j < i → table (cs.getD j 0) ≠ none)
        ∧ packAccumulate table k cs pos a = .error (pos + i))
      ∨ ((∀ j, j < cs.length → table (cs.getD j 0) ≠ none) ∧ ∃ r, packAccumulate table k cs pos a = .ok r) := by
  induction cs generalizing pos a with
  | nil => exact .inr ⟨by simp, a, rfl⟩
  | cons c cs ih =>
    cases hc : table c with
    | none => exact .inl ⟨0, by simp, by simpa using hc, by simp, by simp [packAccumulate, hc]⟩
    | some v =>
      have h0 : table ((c :: cs).getD 0 0) ≠ none := by simp [hc]
      rcases ih (pos + 1) ((a <<< k) ||| v) with ⟨i, hi, hn, hj, he⟩ | ⟨hall, r, hr⟩
      · refine .inl ⟨i + 1, by simpa using hi, by simpa using hn, fun j hjl => ?_, ?_⟩
        · cases j with
          | zero => exact h0
          | succ j => simpa using hj j (by omega)
        · rw [packAccumulate, hc]
          simp only [he]
          congr 1
          omega
      · refine .inr ⟨fun j hjl => ?_, r, by rw [packAccumulate, hc]; exact hr⟩
        cases j with
        | zero => exact h0
        | succ j => simpa using hall j (by simpa using hjl)

/-- Everything PACK_DEC_GROUP can do (R144): a fault at the first character without a digit, or NB bytes. -/
theorem packDecGroup_cases (table : Byte → Option Nat) (k nb : Nat) (c : List Byte) (p : Nat) :
    (∃ i, i < c.length ∧ table (c.getD i 0) = none ∧ (∀ j, j < i → table (c.getD j 0) ≠ none)
        ∧ packDecGroup table k nb c p = .error (p + i))
      ∨ ((∀ j, j < c.length → table (c.getD j 0) ≠ none)
        ∧ ∃ out, packDecGroup table k nb c p = .ok out ∧ out.length = nb) := by
  rcases packAccumulate_cases table k c p 0 with ⟨i, hi, hn, hj, he⟩ | ⟨hall, r, hr⟩
  · exact .inl ⟨i, hi, hn, hj, by simp [packDecGroup, he]⟩
  · exact .inr ⟨hall, packUnload nb r, by simp [packDecGroup, hr], packUnload_length nb r⟩

/-! ### Engine effects -/

/-- Everything the end of an ACC step can do (R120, R121, R123). -/
theorem finishAccStep_cases (d' : Option (List Byte)) (p : Nat) (s : State) :
    (∃ d, d' = some d ∧ finishAccStep d' p s = { loseCarry s with d := d })
      ∨ (d' = none ∧ finishAccStep d' p s = raiseAccFault .capacityExceeded p (loseCarry s)) := by
  cases d' with
  | none => exact .inr ⟨rfl, rfl⟩
  | some d => exact .inl ⟨d, rfl, rfl⟩

/-- Everything ACC_DEC_BYTE can do with the character it takes (R125). -/
theorem accDecByteEffect_cases (b : Byte) (s : State) :
    (activeTable s b = none
        ∧ accDecByteEffect b s = raiseAccFault .invalidCharacter s.incnt.toNat (takeByte s))
      ∨ ∃ v, activeTable s b = some v ∧
        accDecByteEffect b s =
          finishAccStep (accDecStep s.lat.radix.toNat s.params.digitCap s.d v) s.incnt.toNat (takeByte s) := by
  unfold accDecByteEffect
  cases activeTable s b with
  | none => exact .inl ⟨rfl, rfl⟩
  | some v => exact .inr ⟨v, rfl, rfl⟩

/-- Everything FILL_BYTE can do with the byte it takes (R167). -/
theorem fillByteEffect_cases (b : Byte) (s : State) :
    (s.wb.length + 1 ≠ s.lat.w ∧ fillByteEffect b s = { takeByte s with wb := s.wb ++ [b] })
      ∨ (s.wb.length + 1 = s.lat.w ∧ s.lat.dir = .encode
        ∧ fillByteEffect b s = fullEncodeWindow (s.wb ++ [b]) (takeByte s))
      ∨ (s.wb.length + 1 = s.lat.w ∧ s.lat.dir = .decode
        ∧ fillByteEffect b s = fullDecodeWindow (s.wb ++ [b]) (takeByte s)) := by
  unfold fillByteEffect
  by_cases h : s.wb.length + 1 = s.lat.w
  · cases hd : s.lat.dir
    · exact .inr (.inl ⟨h, rfl, by simp [h]⟩)
    · exact .inr (.inr ⟨h, rfl, by simp [h]⟩)
  · exact .inl ⟨h, by simp [h]⟩

/-- Everything a full decode window can do (R167). -/
theorem fullDecodeWindow_cases (x : List Byte) (s : State) :
    (∃ p, decBody s.lat (activeTable s) (x.take (s.lat.w - s.lat.nc)) s.wbase.toNat = .error p
        ∧ fullDecodeWindow x s = raiseWindowFault p s)
      ∨ ∃ out, decBody s.lat (activeTable s) (x.take (s.lat.w - s.lat.nc)) s.wbase.toNat = .ok out
        ∧ fullDecodeWindow x s =
          { losePacc s with
            oq := out, wbase := s.wbase + BitVec.ofNat 32 (s.lat.w - s.lat.nc), wb := x.drop (s.lat.w - s.lat.nc)
            stage := .emit } := by
  unfold fullDecodeWindow
  dsimp only
  cases h : decBody s.lat (activeTable s) (x.take (s.lat.w - s.lat.nc)) s.wbase.toNat with
  | error p => exact .inl ⟨p, rfl, rfl⟩
  | ok out => exact .inr ⟨out, rfl, rfl⟩

/-- Everything FILL_END can do (R168). -/
theorem fillEndEffect_cases (s : State) :
    (∃ p, finalWindow s = .error p
        ∧ fillEndEffect s = raiseWindowFault p { takeToken s with eoseen := true })
      ∨ ∃ out, finalWindow s = .ok out
        ∧ fillEndEffect s = { losePacc (takeToken s) with eoseen := true, oq := out, wb := [], stage := .emit } := by
  unfold fillEndEffect
  cases finalWindow s with
  | error p => exact .inl ⟨p, rfl, rfl⟩
  | ok out => exact .inr ⟨out, rfl, rfl⟩

end Sys2Proof.Machine
end

