-- ==== Sys2Proof/Laws/PerInstr.lean ====
section
/-! SUPPORT. The per-instruction family DecodeEncode: the decoder reads a well-formed instruction back from the
word the encoder gives it. -/

namespace Sys2Proof.Laws

/-- Decode and encode agree on one instruction. -/
def DecodeEncode.Statement (i : Instr) : Prop := i.wellFormed = true → decode (encode i) = .ok i

theorem decodeInWord_byte : ∀ b : Byte, decodeInWord (0#1 ++ b) = .inByte b := by decide

theorem decodeInWord_eos : ∀ b : Byte, decodeInWord (1#1 ++ b) = .inEnd b := by decide

theorem decodeOutWord_byte : ∀ b : Byte, decodeOutWord (0#2 ++ b) = .ok (.outByte b) := by decide

theorem extract_low (op : BitVec 4) (rsv : BitVec 28) : (rsv ++ op).extractLsb' 0 4 = op := by
  ext i hi
  rw [BitVec.getElem_extractLsb', Nat.zero_add]
  refine (BitVec.getLsbD_append (x := rsv) (y := op) (i := i)).trans ?_
  simp [hi]

theorem extract_high (op : BitVec 4) (rsv : BitVec 28) : (rsv ++ op).extractLsb' 4 28 = rsv := by
  ext i hi
  rw [BitVec.getElem_extractLsb']
  refine (BitVec.getLsbD_append (x := rsv) (y := op) (i := 4 + i)).trans ?_
  simp [BitVec.getLsbD_eq_getElem, hi]

theorem decodeCommand_illegal (op : BitVec 4) (rsv : BitVec 28) (h : illegalWordOk op rsv = true) :
    decodeCommand (rsv ++ op) = .illegal op rsv := by
  have ho := extract_low op rsv
  have hr := extract_high op rsv
  have hne : ∀ k : BitVec 4, (rsv = 0#28 → op ≠ k) → rsv ++ op ≠ 0#28 ++ k := by
    intro k hk he
    have h1 : (rsv ++ op).extractLsb' 4 28 = (0#28 ++ k).extractLsb' 4 28 := by rw [he]
    have h2 : (rsv ++ op).extractLsb' 0 4 = (0#28 ++ k).extractLsb' 0 4 := by rw [he]
    rw [hr, extract_high] at h1
    rw [ho, extract_low] at h2
    exact hk h1 h2
  simp only [illegalWordOk, Bool.not_eq_true', Bool.and_eq_false_iff, Bool.or_eq_false_iff,
    beq_eq_false_iff_ne] at h
  have h0 := hne 0#4 (fun hz => by rcases h with h | h; exact absurd hz h; exact h.1.1)
  have h1 := hne 1#4 (fun hz => by rcases h with h | h; exact absurd hz h; exact h.1.2)
  have h2 := hne 2#4 (fun hz => by rcases h with h | h; exact absurd hz h; exact h.2)
  unfold decodeCommand
  rw [if_neg (by simpa using h0), if_neg (by simpa using h1), if_neg (by simpa using h2), ho, hr]

theorem alpha_offset : ∀ j : BitVec 6,
    (0x1#4 ++ j ++ 0#2).extractLsb' 0 2 = 0#2 ∧ 0x1#4 ++ j ++ 0#2 ≠ 0x004#12 ∧ 0x1#4 ++ j ++ 0#2 ≠ 0x008#12
      ∧ 0x1#4 ++ j ++ 0#2 ≠ 0x00C#12 ∧ (0x1#4 ++ j ++ 0#2) &&& 0xF03#12 = 0x100#12
      ∧ (0x1#4 ++ j ++ 0#2).extractLsb' 2 6 = j := by decide

theorem aligned_iff (off : BitVec 12) : off.extractLsb' 0 2 = 0#2 ↔ off.toNat % 4 = 0 := by
  rw [← BitVec.toNat_inj]
  simp

theorem unreadable_offset : ∀ off : BitVec 12, readableOffset off.toNat = false →
    off ≠ 0x000#12 ∧ off ≠ 0x004#12 ∧ off ≠ 0x008#12 ∧ off ≠ 0x00C#12 ∧ off ≠ 0x010#12 ∧ off ≠ 0x014#12
      ∧ off ≠ 0x018#12 ∧ off ≠ 0x01C#12 ∧ off &&& 0xF03#12 ≠ 0x100#12 ∧ off &&& 0xE03#12 ≠ 0x200#12
      ∧ off &&& 0xE03#12 ≠ 0x400#12 := by
  decide +kernel

theorem unwritable_offset : ∀ off : BitVec 12, writableOffset off.toNat = false →
    off ≠ 0x004#12 ∧ off ≠ 0x008#12 ∧ off ≠ 0x00C#12 ∧ off &&& 0xF03#12 ≠ 0x100#12 := by
  decide +kernel

theorem decodeBus_reserved (a : BusAccess) (h : a.reserved = true) : decodeBus a = .reservedAccess a := by
  unfold decodeBus
  split
  · rename_i hp
    rw [aligned_iff] at hp
    simp only [BusAccess.reserved, BusAccess.proper, hp.1, hp.2, beq_self_eq_true, Bool.and_self, Bool.not_true,
      Bool.false_or, Bool.not_eq_true'] at h
    cases hw : a.write
    · rw [hw] at h
      simp [decodeRead, unreadable_offset a.off h]
    · rw [hw] at h
      simp [decodeWrite, unwritable_offset a.off h]
  · rfl


theorem DecodeEncode.nop : DecodeEncode.Statement (.nop) := fun _ => rfl

theorem DecodeEncode.build : DecodeEncode.Statement (.build) := fun _ => rfl

theorem DecodeEncode.start : DecodeEncode.Statement (.start) := fun _ => rfl

theorem DecodeEncode.illegal (op : BitVec 4) (rsv : BitVec 28) : DecodeEncode.Statement (.illegal op rsv) := fun h => congrArg Except.ok (decodeCommand_illegal op rsv h)

theorem DecodeEncode.inByte (b : Byte) : DecodeEncode.Statement (.inByte b) := fun _ => congrArg Except.ok (decodeInWord_byte b)

theorem DecodeEncode.inEnd (b : Byte) : DecodeEncode.Statement (.inEnd b) := fun _ => congrArg Except.ok (decodeInWord_eos b)

theorem DecodeEncode.outByte (b : Byte) : DecodeEncode.Statement (.outByte b) := fun _ => decodeOutWord_byte b

theorem DecodeEncode.outEndOk : DecodeEncode.Statement (.outEndOk) := fun _ => rfl

theorem DecodeEncode.outEndErr : DecodeEncode.Statement (.outEndErr) := fun _ => rfl

theorem DecodeEncode.accEncByte (c : Codec) : DecodeEncode.Statement (.accEncByte c) := by
  intro _
  cases c <;> rfl

theorem DecodeEncode.accDecByte (c : Codec) : DecodeEncode.Statement (.accDecByte c) := by
  intro _
  cases c <;> rfl

theorem DecodeEncode.accEnd (d : Dir) (c : Codec) : DecodeEncode.Statement (.accEnd d c) := by
  intro _
  cases d <;> cases c <;> rfl

theorem DecodeEncode.fillByte (d : Dir) (c : Codec) : DecodeEncode.Statement (.fillByte d c) := by
  intro _
  cases d <;> cases c <;> rfl

theorem DecodeEncode.fillEnd (d : Dir) (c : Codec) : DecodeEncode.Statement (.fillEnd d c) := by
  intro _
  cases d <;> cases c <;> rfl

theorem DecodeEncode.emitByte (d : Dir) (p : Path) (c : Codec) : DecodeEncode.Statement (.emitByte d p c) := by
  intro _
  cases d <;> cases p <;> cases c <;> rfl

theorem DecodeEncode.emitEnd (d : Dir) (p : Path) (c : Codec) : DecodeEncode.Statement (.emitEnd d p c) := by
  intro _
  cases d <;> cases p <;> cases c <;> rfl

theorem DecodeEncode.emitRefill (d : Dir) (p : Path) (c : Codec) : DecodeEncode.Statement (.emitRefill d p c) := by
  intro _
  cases d <;> cases p <;> cases c <;> rfl

theorem DecodeEncode.flushErr (d : Dir) (p : Path) (c : Codec) : DecodeEncode.Statement (.flushErr d p c) := by
  intro _
  cases d <;> cases p <;> cases c <;> rfl

theorem DecodeEncode.drainByte (d : Dir) (p : Path) (c : Codec) : DecodeEncode.Statement (.drainByte d p c) := by
  intro _
  cases d <;> cases p <;> cases c <;> rfl

theorem DecodeEncode.drainEnd (d : Dir) (p : Path) (c : Codec) : DecodeEncode.Statement (.drainEnd d p c) := by
  intro _
  cases d <;> cases p <;> cases c <;> rfl

theorem DecodeEncode.rdId : DecodeEncode.Statement (.rdId) := fun _ => rfl

theorem DecodeEncode.wrConfig (v : Word) : DecodeEncode.Statement (.wrConfig v) := by
  intro _
  simp [encode, writeWord, decode, decodeHost, decodeBus, decodeWrite]

theorem DecodeEncode.rdConfig : DecodeEncode.Statement (.rdConfig) := fun _ => rfl

theorem DecodeEncode.wrWincfg (v : Word) : DecodeEncode.Statement (.wrWincfg v) := by
  intro _
  simp [encode, writeWord, decode, decodeHost, decodeBus, decodeWrite]

theorem DecodeEncode.rdWincfg : DecodeEncode.Statement (.rdWincfg) := fun _ => rfl

theorem DecodeEncode.wrCmd (v : Word) : DecodeEncode.Statement (.wrCmd v) := by
  intro _
  simp [encode, writeWord, decode, decodeHost, decodeBus, decodeWrite]

theorem DecodeEncode.rdCmd : DecodeEncode.Statement (.rdCmd) := fun _ => rfl

theorem DecodeEncode.rdStatus : DecodeEncode.Statement (.rdStatus) := fun _ => rfl

theorem DecodeEncode.rdErrpos : DecodeEncode.Statement (.rdErrpos) := fun _ => rfl

theorem DecodeEncode.rdIncnt : DecodeEncode.Statement (.rdIncnt) := fun _ => rfl

theorem DecodeEncode.rdOutcnt : DecodeEncode.Statement (.rdOutcnt) := fun _ => rfl

theorem DecodeEncode.wrAlpha (j : BitVec 6) (v : Word) : DecodeEncode.Statement (.wrAlpha j v) := by
  intro _
  simp [encode, writeWord, decode, decodeHost, decodeBus, decodeWrite, alpha_offset j]

theorem DecodeEncode.rdAlpha (j : BitVec 6) : DecodeEncode.Statement (.rdAlpha j) := by
  intro _
  revert j
  decide

theorem DecodeEncode.rdDtab (x : BitVec 7) : DecodeEncode.Statement (.rdDtab x) := by
  intro _
  revert x
  decide

theorem DecodeEncode.rdDtabHi (x : BitVec 7) : DecodeEncode.Statement (.rdDtabHi x) := by
  intro _
  revert x
  decide

theorem DecodeEncode.reservedAccess (a : BusAccess) : DecodeEncode.Statement (.reservedAccess a) := by
  intro h
  exact congrArg Except.ok (decodeBus_reserved a h)

end Sys2Proof.Laws
end

