-- ==== Sys2Proof/Tests/Slice0.lean ====
section
/-! SUPPORT. The model's own tests: ill-formed terms that WellFormed refuses, every row's word written out from the
spec's encoding of it, one step of each instruction on a small state (the expected values are the spec's examples and
vectors), and, for each obligation with hypotheses, a concrete state and operands that meet them all. -/

namespace Sys2Proof.Tests

open Sys2Proof Sys2Proof.Machine

/-! ### WellFormed refuses what no word decodes to -/

theorem test_wf_illegal_is_not_nop : (Instr.illegal 0#4 0#28).wellFormed = false := by decide

theorem test_wf_illegal_is_not_build : (Instr.illegal 1#4 0#28).wellFormed = false := by decide

theorem test_wf_illegal_is_not_start : (Instr.illegal 2#4 0#28).wellFormed = false := by decide

theorem test_wf_illegal_reserved_op : (Instr.illegal 3#4 0#28).wellFormed = true := by decide

theorem test_wf_illegal_reserved_bit : (Instr.illegal 0#4 1#28).wellFormed = true := by decide

theorem test_wf_reserved_is_not_a_register_read :
    (Instr.reservedAccess ⟨false, 4, 0x01C#12, 0⟩).wellFormed = false := by decide

theorem test_wf_reserved_is_not_a_register_write :
    (Instr.reservedAccess ⟨true, 4, 0x1FC#12, 5⟩).wellFormed = false := by decide

theorem test_wf_reserved_write_of_read_only :
    (Instr.reservedAccess ⟨true, 4, 0x200#12, 5⟩).wellFormed = true := by decide

theorem test_wf_reserved_narrow : (Instr.reservedAccess ⟨false, 2, 0x004#12, 0⟩).wellFormed = true := by decide

theorem test_wf_reserved_unaligned : (Instr.reservedAccess ⟨true, 4, 0x005#12, 0⟩).wellFormed = true := by decide

/-! ### Words written out from the spec's encodings -/

/-- R81, R82: RSV [31:4], OP [3:0]. -/
theorem test_decode_cmd :
    decode (.host (.cmd 0b0000000000000000000000000000_0000#32)) = .ok .nop
      ∧ decode (.host (.cmd 0b0000000000000000000000000000_0001#32)) = .ok .build
      ∧ decode (.host (.cmd 0b0000000000000000000000000000_0010#32)) = .ok .start
      ∧ decode (.host (.cmd 0b0000000000000000000000000000_0011#32)) = .ok (.illegal 3 0)
      ∧ decode (.host (.cmd 0b1000000000000000000000000000_0001#32)) = .ok (.illegal 1 0x8000000) := by decide

/-- R84: EOS [8], DATA [7:0]. -/
theorem test_decode_in :
    decode (.host (.push 0b0_01100110#9)) = .ok (.inByte 0x66)
      ∧ decode (.host (.push 0b1_00000000#9)) = .ok (.inEnd 0)
      ∧ decode (.host (.push 0b1_11111111#9)) = .ok (.inEnd 0xFF) := by decide

/-- R85: ERRF [9], EOS [8], DATA [7:0]. -/
theorem test_decode_out :
    decode (.host (.pop 0b00_01100110#10)) = .ok (.outByte 0x66)
      ∧ decode (.host (.pop 0b01_00000000#10)) = .ok .outEndOk
      ∧ decode (.host (.pop 0b11_00000000#10)) = .ok .outEndErr
      ∧ decode (.host (.pop 0b10_00000000#10)) = .error (.outWordNeverProduced 0x200)
      ∧ decode (.host (.pop 0b01_00000001#10)) = .error (.outWordNeverProduced 0x101) := by decide

/-- R87, R88: STATE [7:5], TOK [4], DIR [3], PATH [2], CODEC [1:0]. -/
theorem test_decode_dsel :
    decode (.engine ⟨0b001_0_0_0_01#8, false, false⟩) = .ok (.accEncByte .base58)
      ∧ decode (.engine ⟨0b001_0_1_0_10#8, false, false⟩) = .ok (.accDecByte .generic)
      ∧ decode (.engine ⟨0b001_1_1_0_01#8, false, false⟩) = .ok (.accEnd .decode .base58)
      ∧ decode (.engine ⟨0b010_0_0_1_00#8, false, false⟩) = .ok (.fillByte .encode .base64)
      ∧ decode (.engine ⟨0b010_1_1_1_10#8, false, false⟩) = .ok (.fillEnd .decode .generic)
      ∧ decode (.engine ⟨0b110_0_1_0_01#8, false, true⟩) = .ok (.flushErr .decode .acc .base58)
      ∧ decode (.engine ⟨0b111_0_0_1_00#8, false, false⟩) = .ok (.drainByte .encode .pack .base64)
      ∧ decode (.engine ⟨0b111_1_0_1_11#8, false, false⟩) = .ok (.drainEnd .encode .pack .reserved) := by decide

/-- R88: the three operations of EMIT, told apart by OQ and EOSEEN. -/
theorem test_decode_dsel_emit :
    decode (.engine ⟨0b011_0_0_1_00#8, true, false⟩) = .ok (.emitByte .encode .pack .base64)
      ∧ decode (.engine ⟨0b011_0_0_1_00#8, true, true⟩) = .ok (.emitByte .encode .pack .base64)
      ∧ decode (.engine ⟨0b011_0_1_0_01#8, false, true⟩) = .ok (.emitEnd .decode .acc .base58)
      ∧ decode (.engine ⟨0b011_0_0_1_00#8, false, false⟩) = .ok (.emitRefill .encode .pack .base64) := by decide

/-- R88: the states without an operation, and the selectors that never occur. -/
theorem test_decode_dsel_none :
    decode (.engine ⟨0b000_0_0_0_00#8, false, false⟩) = .error .noEngineStep
      ∧ decode (.engine ⟨0b100_0_0_0_00#8, false, true⟩) = .error .noEngineStep
      ∧ decode (.engine ⟨0b101_0_0_0_00#8, false, false⟩) = .error .noEngineStep
      ∧ decode (.engine ⟨0b001_0_0_1_00#8, false, false⟩) = .error .unreachableSelector
      ∧ decode (.engine ⟨0b010_1_0_0_00#8, false, false⟩) = .error .unreachableSelector
      ∧ decode (.engine ⟨0b011_1_0_0_00#8, false, false⟩) = .error .unreachableSelector := by decide

/-- A register access: direction, byte count, offset, data. -/
def rd (off : BitVec 12) : FetchWord := .host (.bus ⟨false, 4, off, 0⟩)

/-- A register write. -/
def wr (off : BitVec 12) (v : Word) : FetchWord := .host (.bus ⟨true, 4, off, v⟩)

/-- R22: the registers and windows, read. -/
theorem test_decode_reads :
    decode (rd 0x000#12) = .ok .rdId ∧ decode (rd 0x004#12) = .ok .rdConfig
      ∧ decode (rd 0x008#12) = .ok .rdWincfg ∧ decode (rd 0x00C#12) = .ok .rdCmd
      ∧ decode (rd 0x010#12) = .ok .rdStatus ∧ decode (rd 0x014#12) = .ok .rdErrpos
      ∧ decode (rd 0x018#12) = .ok .rdIncnt ∧ decode (rd 0x01C#12) = .ok .rdOutcnt
      ∧ decode (rd 0x100#12) = .ok (.rdAlpha 0) ∧ decode (rd 0x1FC#12) = .ok (.rdAlpha 63)
      ∧ decode (rd 0x200#12) = .ok (.rdDtab 0) ∧ decode (rd 0x3FC#12) = .ok (.rdDtab 127)
      ∧ decode (rd 0x400#12) = .ok (.rdDtabHi 0) ∧ decode (rd 0x5FC#12) = .ok (.rdDtabHi 127) := by decide

/-- R22, R63: the registers and windows, written, and what is ignored. -/
theorem test_decode_writes :
    decode (wr 0x004#12 7) = .ok (.wrConfig 7) ∧ decode (wr 0x008#12 7) = .ok (.wrWincfg 7)
      ∧ decode (wr 0x00C#12 2) = .ok (.wrCmd 2) ∧ decode (wr 0x104#12 7) = .ok (.wrAlpha 1 7)
      ∧ decode (wr 0x000#12 7) = .ok (.reservedAccess ⟨true, 4, 0x000#12, 7⟩)
      ∧ decode (wr 0x200#12 7) = .ok (.reservedAccess ⟨true, 4, 0x200#12, 7⟩)
      ∧ decode (rd 0x020#12) = .ok (.reservedAccess ⟨false, 4, 0x020#12, 0⟩)
      ∧ decode (rd 0x600#12) = .ok (.reservedAccess ⟨false, 4, 0x600#12, 0⟩)
      ∧ decode (.host (.bus ⟨false, 1, 0x004#12, 0⟩)) = .ok (.reservedAccess ⟨false, 1, 0x004#12, 0⟩) := by decide

/-- The table's numbering of its words (assumption log 2). -/
theorem test_decode_table_words :
    decodeTableWord 32 0x00000001 = some .build ∧ decodeTableWord 9 0x166 = some (.inEnd 0x66)
      ∧ decodeTableWord 10 0x300 = some .outEndErr ∧ decodeTableWord 8 0x60 = some (.emitRefill .encode .acc .base64)
      ∧ decodeTableWord 12 0x38C = some (.rdDtab 0x63) ∧ decodeTableWord 16 0x1004 = some (.wrConfig 0)
      ∧ decodeTableWord 48 0x00111004 = some (.wrConfig 0x11) ∧ decodeTableWord 10 0x200 = none
      ∧ decodeTableWord 8 0x100 = none := by decide

/-! ### Small states -/

/-- A field of the next state, if there is one. -/
def after {α : Type} (f : State → α) : Host.Outcome State Fault Refusal → Option α
  | .next t => some (f t)
  | .fault _ => none
  | .refused _ => none

/-- IDLE with a radix, ALPHA[0..3] = 'a', 'b', 'c', x. -/
def withAlphabet (radix : BitVec 9) (x : Byte) : State :=
  { State.reset with
    config := ⟨radix, .generic, .encode⟩, alpha := [(0, 0x61), (1, 0x62), (2, 0x63), (3, x)] }

/-- The state BUILD leaves from 'a', 'b', 'c' with radix 3. -/
def built : State :=
  { withAlphabet 3 0x64 with
    tabc := [(0x61, 0), (0x62, 1), (0x63, 2)], tradix := 3, tableValid := true }

/-- The latches of a base58 conversion. -/
def lat58 (dir : Dir) : Latches :=
  { State.reset.lat with codec := .base58, dir := dir, radix := 58 }

/-- The latches of a base64 conversion, two groups a window. -/
def lat64 (dir : Dir) : Latches :=
  match dir with
  | .encode => ⟨.base64, .encode, 64, .pack, 6, 3, 4, 3, 6⟩
  | .decode => ⟨.base64, .decode, 64, .pack, 6, 3, 4, 4, 8⟩

/-- ACC_RUN with digits in D and tokens on IN. -/
def accState (dir : Dir) (d : List Byte) (tokens : List InToken) : State :=
  { State.reset with stage := .accRun, lat := lat58 dir, d := d, inOffer := tokens }

/-- FILL with a window and tokens on IN. -/
def fillState (dir : Dir) (wb : List Byte) (tokens : List InToken) : State :=
  { State.reset with stage := .fill, lat := lat64 dir, wb := wb, inOffer := tokens }

/-- EMIT with output to give and a consumer that accepts. -/
def emitState (oq : List Byte) (eoseen : Bool) (accept : List (Option OutToken)) : State :=
  { State.reset with stage := .emit, lat := lat64 .encode, oq := oq, eoseen := eoseen, outAccept := accept }

/-- A state of the engine, an error on record, with tokens on IN and a consumer that accepts. -/
def errorState (st : Stage) (eoseen : Bool) (tokens : List InToken) : State :=
  { State.reset with
    stage := st, errcode := 1, eoseen := eoseen, inOffer := tokens, outAccept := [none], lat := lat58 .decode }

/-- With turns to take. -/
def turns (ts : List Turn) (s : State) : State := { s with agenda := ts }

/-! ### Commands -/

/-- R102: in DONE, `cmd NOP` leaves STATUS unchanged. -/
theorem test_nop : after statusWord (exec .nop { State.reset with stage := .done, wign := true }) = some 0x4012 := by
  decide

/-- R105's example: STATUS, then DTAB+0x61, DTAB+0x63, DTAB+0x64. -/
theorem test_build :
    after (fun t => (statusWord t, dtabWord t.tabc 0x61, dtabWord t.tabc 0x63, dtabWord t.tabc 0x64))
      (exec .build (withAlphabet 3 0x64)) = some (0x8, 0, 2, 0xFFFFFFFF) := by decide

/-- R104's example, and R105: the later of two equal symbols. -/
theorem test_build_faults :
    after statusWord (exec .build (withAlphabet 1 0x64)) = some 0x5204
      ∧ after (fun t => (statusWord t, t.errpos)) (exec .build (withAlphabet 4 0x62)) = some (0x5304, 3) := by decide

/-- R108's example, from reset. -/
theorem test_start : after statusWord (exec .start State.reset) = some 0x2001 := by decide

/-- R107's example; and a window of one group. -/
theorem test_start_faults :
    after statusWord (exec .start (withAlphabet 3 0x64)) = some 0x5404
      ∧ after statusWord (exec .start { State.reset with winGroups := 1 }) = some 0x5704 := by decide

/-- R103's example. -/
theorem test_illegal : after statusWord (exec (.illegal 2 1) State.reset) = some 0x5604 := by decide

/-- R101: a busy block ignores it and sets WIGN. -/
theorem test_illegal_busy :
    after statusWord (exec (.illegal 2 1) (accState .encode [] [])) = some 0x1011 := by decide

/-! ### Ports -/

/-- R70: offered after what was offered before. -/
theorem test_inByte :
    after State.inOffer (exec (.inByte 0x66) (accState .encode [] [.eos])) = some [.eos, .byte 0x66] := by decide

/-- R84: DATA of an End token is ignored. -/
theorem test_inEnd : after State.inOffer (exec (.inEnd 0x66) State.reset) = some [.eos] := by decide

/-- R91: one acceptance, asserting the byte. -/
theorem test_outByte : after State.outAccept (exec (.outByte 0x66) State.reset) = some [some (.byte 0x66)] := by decide

/-- R91. -/
theorem test_outEndOk : after State.outAccept (exec .outEndOk State.reset) = some [some .endOk] := by decide

/-- R91. -/
theorem test_outEndErr : after State.outAccept (exec .outEndErr State.reset) = some [some .endErr] := by decide

/-! ### The ACC unit -/

/-- R120's example: LR = 58, D = [1], c = 0 gives [24, 4]. -/
theorem test_accEncByte :
    after (fun t => (t.d, t.incnt, t.stage)) (exec (.accEncByte .base58) (accState .encode [1] [.byte 0])) =
      some ([24, 4], 1, .accRun) := by decide

/-- R123: an append beyond DIGIT_CAP. -/
theorem test_accEncByte_capacity :
    after (fun t => (statusWord t, t.errpos, t.incnt))
      (exec (.accEncByte .base58) { accState .encode [1] [.byte 0] with params := ⟨1, 2048⟩, incnt := 4 }) =
      some (0x6505, 4, 5) := by decide

/-- R121's example: D = [1] and the digit 24 (its character is 'R', 0x52) give [82]. -/
theorem test_accDecByte :
    after (fun t => (t.d, t.incnt)) (exec (.accDecByte .base58) (accState .decode [1] [.byte 0x52])) =
      some ([82], 1) := by decide

/-- R125's example: '0' after '2' faults INVALID_CHARACTER at 1 with INCNT = 2. -/
theorem test_accDecByte_invalid :
    after (fun t => (statusWord t, t.errpos, t.incnt))
      (exec (.accDecByte .base58) { accState .decode [1] [.byte 0x30] with incnt := 1 }) =
      some (0x6105, 1, 2) := by decide

/-- R126's example: D = [24, 4] gives "5R". -/
theorem test_accEnd :
    after (fun t => (t.oq, t.stage, t.eoseen)) (exec (.accEnd .encode .base58) (accState .encode [24, 4] [.eos])) =
      some ([0x35, 0x52], .emit, true) := by decide

/-! ### The SLICER -/

/-- R167's example: "Zm9vYg==" with LW = 8. -/
theorem test_fillByte_decode :
    after (fun t => (t.oq, t.wb, t.wbase, t.stage))
      (exec (.fillByte .decode .base64)
        (fillState .decode [0x5A, 0x6D, 0x39, 0x76, 0x59, 0x67, 0x3D] [.byte 0x3D])) =
      some ([0x66, 0x6F, 0x6F], [0x59, 0x67, 0x3D, 0x3D], 4, .emit) := by decide

/-- R194: "Zg==Zg==" faults at index 2, and WB is not written. -/
theorem test_fillByte_fault :
    after (fun t => (statusWord t, t.errpos, t.wb.length, t.oq))
      (exec (.fillByte .decode .base64)
        (fillState .decode [0x5A, 0x67, 0x3D, 0x3D, 0x5A, 0x67, 0x3D] [.byte 0x3D])) =
      some (0x6105, 2, 7, []) := by decide

/-- R191's example: "fo" gives "Zm8=". -/
theorem test_fillEnd_encode :
    after (fun t => (t.oq, t.wb, t.eoseen)) (exec (.fillEnd .encode .base64) (fillState .encode [0x66, 0x6F] [.eos])) =
      some ([0x5A, 0x6D, 0x38, 0x3D], [], true) := by decide

/-- R193's example: "AB=C" faults at 3, and EOSEEN is set. -/
theorem test_fillEnd_fault :
    after (fun t => (statusWord t, t.errpos, t.eoseen))
      (exec (.fillEnd .decode .base64) (fillState .decode [0x41, 0x42, 0x3D, 0x43] [.eos])) =
      some (0x6105, 3, true) := by decide

/-- R164's example: OQ = "5R", its first byte. -/
theorem test_emitByte :
    after (fun t => (t.outTokens, t.oq, t.outcnt, t.assertFailed))
      (exec (.emitByte .encode .pack .base64) (emitState [0x35, 0x52] true [some (.byte 0x52)])) =
      some ([.byte 0x35], [0x52], 1, true) := by decide

/-- R61: it waits while the consumer does not accept. -/
theorem test_emitByte_waits :
    after (fun t => (t.outTokens, t.oq)) (exec (.emitByte .encode .pack .base64) (emitState [0x35] true [])) =
      some ([], [0x35]) := by decide

/-- R165: STATUS reads DONE. -/
theorem test_emitEnd :
    after (fun t => (statusWord t, t.outTokens)) (exec (.emitEnd .encode .pack .base64) (emitState [] true [none])) =
      some (0x4002, [.endOk]) := by decide

/-- R173. -/
theorem test_emitRefill :
    after (fun t => (t.stage, t.outTokens)) (exec (.emitRefill .encode .pack .base64) (emitState [] false [none])) =
      some (.fill, []) := by decide

/-- R175: DRAIN while End is still to come, ERROR after it. -/
theorem test_flushErr :
    after (fun t => (t.stage, t.outTokens)) (exec (.flushErr .decode .acc .base58) (errorState .flushErr false [])) =
      some (.drain, [.endErr])
      ∧ after State.stage (exec (.flushErr .decode .acc .base58) (errorState .flushErr true [])) = some .error := by
  decide

/-- R176, R33: taken and not counted. -/
theorem test_drainByte :
    after (fun t => (t.inOffer, t.incnt, t.stage))
      (exec (.drainByte .decode .acc .base58) (errorState .drain false [.byte 1, .eos])) =
      some ([.eos], 0, .drain) := by decide

/-- R176. -/
theorem test_drainEnd :
    after (fun t => (t.inOffer, t.eoseen, t.stage))
      (exec (.drainEnd .decode .acc .base58) (errorState .drain false [.eos, .byte 2])) =
      some ([.byte 2], true, .error) := by decide

/-! ### Registers -/

/-- R21. -/
theorem test_rdId : after State.busData (exec .rdId State.reset) = some 0x42580007 := by decide

/-- R24: RADIX 3, CODEC 2, DIR 1; a change of RADIX clears TABLE_VALID, a change of DIR alone does not (R233). -/
theorem test_wrConfig :
    after (fun t => (t.config, t.tableValid)) (exec (.wrConfig 0x00012004) built) =
      some (⟨4, .generic, .decode⟩, false)
      ∧ after (fun t => (t.config, t.tableValid)) (exec (.wrConfig 0xFFFFEE03) built) =
        some (⟨3, .generic, .decode⟩, true) := by decide

/-- R23: reserved bits read 0. -/
theorem test_rdConfig : after State.busData (exec .rdConfig built) = some 0x00002003 := by decide

/-- R25: any 16-bit value. -/
theorem test_wrWincfg : after State.winGroups (exec (.wrWincfg 0xABCD0001) State.reset) = some 1 := by decide

/-- R54. -/
theorem test_rdWincfg : after State.busData (exec .rdWincfg State.reset) = some 0x100 := by decide

/-- R100: writing 2 to CMD is START. -/
theorem test_wrCmd : after statusWord (exec (.wrCmd 2) State.reset) = some 0x2001 := by decide

/-- R26. -/
theorem test_rdCmd :
    after (fun t => (t.busData, t.stage)) (exec .rdCmd { State.reset with busData := 5 }) = some (0, .idle) := by decide

/-- R27: STATE = DRAIN, ERRCODE = 1, ERR and BUSY. -/
theorem test_rdStatus : after State.busData (exec .rdStatus (errorState .drain false [])) = some 0x7105 := by decide

/-- R32. -/
theorem test_rdErrpos : after State.busData (exec .rdErrpos { State.reset with errpos := 9 }) = some 9 := by decide

/-- R33. -/
theorem test_rdIncnt : after State.busData (exec .rdIncnt { State.reset with incnt := 8 }) = some 8 := by decide

/-- R34. -/
theorem test_rdOutcnt : after State.busData (exec .rdOutcnt { State.reset with outcnt := 7 }) = some 7 := by decide

/-- R36: four lanes, lowest index lowest; TABLE_VALID is cleared. -/
theorem test_wrAlpha :
    after (fun t => (t.alpha, t.tableValid)) (exec (.wrAlpha 0 0x00636200) built) =
      some ([(1, 0x62), (2, 0x63)], false) := by decide

/-- R36: ignored while busy. -/
theorem test_wrAlpha_busy :
    after (fun t => (t.alpha, t.wign)) (exec (.wrAlpha 0 0x00636200) (accState .encode [] [])) =
      some ([], true) := by decide

/-- R36. -/
theorem test_rdAlpha : after State.busData (exec (.rdAlpha 0) built) = some 0x64636261 := by decide

/-- R37: a valid entry, and the sentinel. -/
theorem test_rdDtab :
    after State.busData (exec (.rdDtab 0x63) built) = some 2
      ∧ after State.busData (exec (.rdDtab 0x64) built) = some 0xFFFFFFFF := by decide

/-- R37: character 128 + 3. -/
theorem test_rdDtabHi :
    after State.busData (exec (.rdDtabHi 3) { built with tabc := [(0x03, 9), (0x83, 200)] }) = some 200 := by decide

/-- R62, R63: a bus error, and an unlisted offset. -/
theorem test_reservedAccess :
    after (fun t => (t.busData, t.busError))
        (exec (.reservedAccess ⟨false, 2, 0x000#12, 0⟩) { State.reset with busData := 5 }) = some (0, true)
      ∧ after (fun t => (t.busData, t.busError, t.wign))
        (exec (.reservedAccess ⟨true, 4, 0x010#12, 3⟩) (accState .encode [] [])) = some (0, false, false) := by decide

/-! ### Steps -/

/-- 20_memory.md R68, 30_encoding.md R92: `poll DONE` reads STATUS and lets the engine have a turn. -/
theorem test_poll :
    after (fun t => (t.busData, t.agenda)) (step (turns [.poll .done] (emitState [] true [none]))) =
      some (0x3001, [.engine, .poll .done]) := by decide

/-- 70_reset_and_hazards.md R230, R237: reset in a conversion leaves what was not taken with the host. -/
theorem test_reset :
    after (fun t => (statusWord t, t.d, t.inOffer)) (step (turns [.reset] (accState .encode [1] [.byte 0]))) =
      some (0, [], [.byte 0]) := by decide

/-! ### Witnesses: states and operands that meet the hypotheses of each obligation -/

theorem witness_StepRunsTheDecodedHostWord :
    (turns [.word (.cmd 1)] (withAlphabet 3 0x64)).agenda = .word (.cmd 1) :: []
      ∧ decode (.host (.cmd 1)) = .ok .build := by decide

theorem witness_StepRunsTheSelectedEngineOperation_empty :
    (accState .encode [1] [.byte 0]).agenda = []
      ∧ selector (accState .encode [1] [.byte 0]) = some ⟨0b001_0_0_0_01#8, false, false⟩
      ∧ decode (.engine ⟨0b001_0_0_0_01#8, false, false⟩) = .ok (.accEncByte .base58) := by decide

theorem witness_StepRunsTheSelectedEngineOperation_engine :
    (turns [.engine] (emitState [] true [none])).agenda = .engine :: []
      ∧ selector (turns [.engine] (emitState [] true [none])) = some ⟨0b011_0_0_1_00#8, false, true⟩
      ∧ decode (.engine ⟨0b011_0_0_1_00#8, false, true⟩) = .ok (.emitEnd .encode .pack .base64) := by decide

theorem witness_StepRunsTheSelectedEngineOperation_waits :
    ((fillState .decode [] []).agenda = [] ∧ (fillState .decode [] []).stage = .fill
        ∧ (fillState .decode [] []).inOffer = [])
      ∧ (turns [.engine] (accState .encode [] [])).agenda = .engine :: []
      ∧ (turns [.engine] (accState .encode [] [])).stage = .accRun
      ∧ (turns [.engine] (accState .encode [] [])).inOffer = [] := by decide

theorem witness_StepRunsTheSelectedEngineOperation_rests :
    (turns [.engine] built).agenda = .engine :: [] ∧ (turns [.engine] built).stage = .idle
      ∧ (turns [] (errorState .error true [.byte 1])).stage = .error := by decide

/-- A wait for DONE in EMIT, with an operation to run; a wait for an offer to be taken, with nothing to wait for. -/
theorem witness_StepRunsTheSelectedEngineOperation_wait :
    ((turns [.wait (.stage .done)] (emitState [] true [none])).agenda = .wait (.stage .done) :: []
        ∧ waitHolds (.stage .done) (turns [.wait (.stage .done)] (emitState [] true [none])) = false
        ∧ selector (turns [.wait (.stage .done)] (emitState [] true [none])) = some ⟨0b011_0_0_1_00#8, false, true⟩)
      ∧ (turns [.wait .taken] State.reset).agenda = .wait .taken :: []
      ∧ waitHolds .taken (turns [.wait .taken] State.reset) = true := by decide

theorem witness_DecodeOfEncodeIsTheInstruction :
    (Instr.illegal 3#4 0#28).wellFormed = true ∧ (Instr.reservedAccess ⟨false, 4, 0xFFC#12, 0⟩).wellFormed = true := by
  decide

theorem witness_DecodingIsTotal :
    (Stage.accRun = .accRun → Sys2Proof.Path.acc = .acc) ∧ (Stage.accRun = .fill → Sys2Proof.Path.acc = .pack)
      ∧ (true = true → Stage.accRun = .accRun ∨ Stage.accRun = .fill ∨ Stage.accRun = .drain) := by decide

theorem witness_IllegalCommandFaults :
    (3#32 ≠ 0 ∧ 3#32 ≠ 1 ∧ 3#32 ≠ 2) ∧ State.reset.busy = false ∧ (accState .encode [] []).busy = true := by decide

theorem witness_BuildChecksTheRadix :
    ((withAlphabet 1 0).busy = false ∧ (withAlphabet 1 0).config.radix.toNat < 2)
      ∧ (withAlphabet 257 0).busy = false ∧ 256 < (withAlphabet 257 0).config.radix.toNat := by decide

/-- The symbols 'a', 'b', 'c', 'b': j = 3 equals i = 1, and no smaller j equals an earlier symbol. -/
theorem witness_BuildDerivesTheTable_duplicate :
    (withAlphabet 4 0x62).busy = false ∧ 2 ≤ (withAlphabet 4 0x62).config.radix.toNat
      ∧ (withAlphabet 4 0x62).config.radix.toNat ≤ 256 ∧ 3 < (withAlphabet 4 0x62).config.radix.toNat
      ∧ (∃ i, i < 3 ∧ (withAlphabet 4 0x62).alpha.read i = (withAlphabet 4 0x62).alpha.read 3)
      ∧ ∀ j' i, j' < 3 → i < j' → (withAlphabet 4 0x62).alpha.read i ≠ (withAlphabet 4 0x62).alpha.read j' := by
  refine ⟨by decide, by decide, by decide, by decide, ⟨1, by decide⟩, fun j' i hj hi => ?_⟩
  have h : ∀ j' < 3, ∀ i < j', (withAlphabet 4 0x62).alpha.read i ≠ (withAlphabet 4 0x62).alpha.read j' := by decide
  exact h j' hj i hi

theorem witness_BuildDerivesTheTable_distinct :
    (withAlphabet 2 0).busy = false ∧ 2 ≤ (withAlphabet 2 0).config.radix.toNat
      ∧ (withAlphabet 2 0).config.radix.toNat ≤ 256
      ∧ ∀ j i, j < (withAlphabet 2 0).config.radix.toNat → i < j →
        (withAlphabet 2 0).alpha.read i ≠ (withAlphabet 2 0).alpha.read j := by
  refine ⟨by decide, by decide, by decide, fun j i hj hi => ?_⟩
  have h : ∀ j < 2, ∀ i < j, (withAlphabet 2 0).alpha.read i ≠ (withAlphabet 2 0).alpha.read j := by decide
  exact h j hj i hi

/-- START's checks: the reserved codec, no table, a window of one group and one that is a byte too long. -/
theorem witness_StartChecksInOrder :
    ({ State.reset with config := ⟨0, .reserved, .encode⟩ }.busy = false)
      ∧ ((withAlphabet 3 0).config.codec = .generic ∧ (withAlphabet 3 0).tableValid = false)
      ∧ (State.reset.config.codec = .base64 ∧ geometry 64 = some ⟨6, 3, 4⟩ ∧ State.reset.config.dir = .encode
        ∧ (1#16).toNat < 2 ∧ State.reset.params.wbufCap < (683#16).toNat * 3) := by decide

/-- START on the ACC path with a table of three symbols and with BASE58, and on the PACK path with the smallest and the
largest window. -/
theorem witness_StartLatchesAndEnters :
    (built.busy = false ∧ built.config.codec = .generic ∧ built.tableValid = true ∧ geometry built.tradix = none)
      ∧ ({ State.reset with config := ⟨0, .base58, .decode⟩ }.config.codec = .base58 ∧ geometry 58 = none)
      ∧ (State.reset.config.codec = .base64 ∧ geometry 64 = some ⟨6, 3, 4⟩ ∧ State.reset.config.dir = .encode
        ∧ 2 ≤ (2#16).toNat ∧ (682#16).toNat * 3 ≤ State.reset.params.wbufCap) := by decide

theorem witness_WritesWhileBusyAreLost : (accState .encode [] []).busy = true ∧ (1 : Word) ≠ 0 := by decide

theorem witness_InWordsAreOffered :
    (0x0FF#9).getLsbD 8 = false ∧ (0x100#9).getLsbD 8 = true ∧ (0x1FF#9).getLsbD 8 = true := by decide

theorem witness_OutWordsAreAcceptances :
    (0x200#10).extractLsb' 8 2 ≠ 0#2 ∧ 0x200#10 ≠ 0x100#10 ∧ 0x200#10 ≠ 0x300#10 := by decide

/-- D = [1] in base 58: 256 · 1 + 0 fits two digits and not one. -/
theorem witness_AccEncodeByteMultipliesAndAdds :
    ((accState .encode [1] [.byte 0]).stage = .accRun ∧ (accState .encode [1] [.byte 0]).lat.dir = .encode
        ∧ (accState .encode [1] [.byte 0]).lat.path = .acc
        ∧ (accState .encode [1] [.byte 0]).inOffer = .byte 0 :: [])
      ∧ 3 ≤ (lat58 .encode).radix.toNat ∧ (lat58 .encode).radix.toNat ≤ 256
      ∧ canonicalDigits (lat58 .encode).radix.toNat [1]
      ∧ 256 * valueLE (lat58 .encode).radix.toNat [1] + (0#8).toNat < (lat58 .encode).radix.toNat ^ 2
      ∧ (lat58 .encode).radix.toNat ^ 1 ≤ 256 * valueLE (lat58 .encode).radix.toNat [1] + (0#8).toNat := by
  unfold canonicalDigits
  decide

/-- The characters '0' (no base58 character) and 'z' (digit 57), D = [255]: 58 · 255 + 57 fits two bytes and not
one. -/
theorem witness_AccDecodeByteMultipliesAndAdds :
    ((accState .decode [255] [.byte 0x30]).stage = .accRun ∧ (accState .decode [255] [.byte 0x30]).lat.dir = .decode
        ∧ (accState .decode [255] [.byte 0x30]).lat.path = .acc
        ∧ (accState .decode [255] [.byte 0x30]).inOffer = .byte 0x30 :: [])
      ∧ 3 ≤ (lat58 .decode).radix.toNat ∧ (lat58 .decode).radix.toNat ≤ 256 ∧ canonicalDigits 256 [255]
      ∧ activeTable (accState .decode [255] [.byte 0x30]) 0x30 = none
      ∧ activeTable (accState .decode [255] [.byte 0x7A]) 0x7A = some 57 ∧ 57 < (lat58 .decode).radix.toNat
      ∧ (lat58 .decode).radix.toNat * valueLE 256 [255] + 57 < 256 ^ 2
      ∧ 256 ^ 1 ≤ (lat58 .decode).radix.toNat * valueLE 256 [255] + 57 := by
  unfold canonicalDigits
  decide

theorem witness_AccEndQueuesTheDigits :
    ∀ dir, (accState dir [24, 4] [.eos]).stage = .accRun ∧ (accState dir [24, 4] [.eos]).lat.path = .acc
      ∧ (accState dir [24, 4] [.eos]).inOffer = .eos :: [] ∧ (accState dir [24, 4] [.eos]).lat.dir = dir := by
  intro dir
  cases dir <;> decide

theorem witness_CarryFitsSixteenBits :
    (∀ y ∈ ([255, 255] : List Byte), y.toNat < 256) ∧ (255#8).toNat < 256 ∧ 255 ≤ 255 ∧ 2 < 3 := by decide

/-- base58 of [0x01, 0x00] (R124's example), and base-58 digits 1, 24 (R121's). -/
theorem witness_AccumulationClosedForm :
    accEncMessage 58 2 [1, 0] 0 [] = .ok [24, 4]
      ∧ ([0x32, 0x52] : List Byte).map tab58 = [1, 24].map some ∧ (∀ v ∈ [1, 24], v < 58)
      ∧ accDecMessage tab58 58 1 [0x32, 0x52] 0 [] = .ok [82] := by decide

theorem witness_AccRoundTripDropsLeadingZeros :
    (∀ i, i < 58 → tab58 (rom58 i) = some i) ∧ tab58 0x31 = some 0 ∧ accEncMessage 58 2 [0, 1, 0] 0 [] = .ok [24, 4]
      ∧ accDecMessage tab58 58 4096 (accEncOutput rom58 [24, 4]) 0 [] = .ok [0, 1] := by decide

/-- A PACK geometry's latches: two groups a window, the fewest START accepts. -/
theorem lat64_packLatchesFor (dir : Dir) : PackLatchesFor (lat64 dir) 2 :=
  ⟨⟨6, 3, 4⟩, by cases dir <;> decide⟩

theorem witness_PackRoundTrip :
    PackLatchesFor (lat64 .encode) 2 ∧ (∀ i, i < 2 ^ (lat64 .encode).k.toNat → tab64 (rom64 i) = some i)
      ∧ ([0x4D, 0x61, 0x6E] : List Byte).length = (lat64 .encode).nb ∧ (lat64 .encode).nb ∣ 6
      ∧ ∀ i, i < 2 ^ (lat64 .encode).k.toNat → rom64 i ≠ padByte :=
  ⟨lat64_packLatchesFor .encode, by decide, by decide, by decide, by decide⟩

/-- The latches of a GENERIC radix 64 encode, which does not pad (R143, R169). -/
theorem witness_ShortGroupDecodesRightAligned :
    PackLatchesFor { lat64 .encode with codec := .generic } 2
      ∧ (∀ i, i < 2 ^ (lat64 .encode).k.toNat → tab64 (rom64 i) = some i)
      ∧ 1 ≤ ([0xFF] : List Byte).length ∧ ([0xFF, 0xFF] : List Byte).length < (lat64 .encode).nb
      ∧ Codec.generic ≠ .base64 ∧ (lat64 .encode).nb ∣ ([1, 2, 3] : List Byte).length :=
  ⟨⟨⟨6, 3, 4⟩, by decide⟩, by decide, by decide⟩

theorem witness_PackDigitsRepresentTheMessage :
    PackLatchesFor (lat64 .encode) 2 ∧ (lat64 .encode).nb ∣ ([0, 0x61, 0x6E] : List Byte).length :=
  ⟨lat64_packLatchesFor .encode, by decide⟩

/-- A window that grows, a full encode window, a full decode window that decodes and one that faults. -/
theorem witness_FillByteConvertsFullWindows :
    ((fillState .encode [] [.byte 1]).stage = .fill ∧ (fillState .encode [] [.byte 1]).lat.path = .pack
        ∧ (fillState .encode [] [.byte 1]).inOffer = .byte 1 :: []
        ∧ (fillState .encode [] [.byte 1]).wb.length + 1 ≠ (lat64 .encode).w)
      ∧ ([1, 2, 3, 4, 5] : List Byte).length + 1 = (lat64 .encode).w
      ∧ ([0x5A, 0x6D, 0x39, 0x76, 0x59, 0x67, 0x3D] : List Byte).length + 1 = (lat64 .decode).w
      ∧ decBody (lat64 .decode) tab64 [0x5A, 0x6D, 0x39, 0x76] 0 = .ok [0x66, 0x6F, 0x6F]
      ∧ decBody (lat64 .decode) tab64 [0x5A, 0x67, 0x3D, 0x3D] 0 = .error 2 := by decide

/-- DEC_BODY: PAD at index 2 is the first character without a digit; and a group in which each has one (R194). -/
theorem witness_FillByteConvertsFullWindows_body :
    PackLatchesFor (lat64 .decode) 2 ∧ 2 < 5 / (lat64 .decode).nc * (lat64 .decode).nc
      ∧ tab64 (([0x5A, 0x67, 0x3D, 0x3D, 0x0A] : List Byte).getD 2 0) = none
      ∧ (∀ j, j < 2 → tab64 (([0x5A, 0x67, 0x3D, 0x3D, 0x0A] : List Byte).getD j 0) ≠ none)
      ∧ ∀ j, j < 4 → tab64 (([0x5A, 0x6D, 0x39, 0x76, 0x0A] : List Byte).getD j 0) ≠ none :=
  ⟨lat64_packLatchesFor .decode, by decide⟩

/-- DEC_FINAL on no whole group, on a fault in its body, on one in a last group without PAD, and on padded last groups
that decode and that fault. -/
theorem witness_FillEndConvertsTheLastWindow_final :
    PackLatchesFor (lat64 .decode) 2 ∧ 3 / (lat64 .decode).nc * (lat64 .decode).nc = 0
      ∧ 8 / (lat64 .decode).nc * (lat64 .decode).nc = 8
      ∧ (2 < 8 - (lat64 .decode).nc ∧ tab64 (([0x5A, 0x67, 0x3D, 0x3D, 0x5A, 0x67, 0x3D, 0x3D] : List Byte).getD 2 0) = none)
      ∧ (tab64 (([0x5A, 0x6D, 0x39, 0x0A] : List Byte).getD 3 0) = none
        ∧ padByte ∉ (([0x5A, 0x6D, 0x39, 0x0A] : List Byte).take 4).drop (4 - (lat64 .decode).nc))
      ∧ padByte ∈ (([0x5A, 0x67, 0x3D, 0x3D, 0x0A] : List Byte).take 4).drop (4 - (lat64 .decode).nc)
      ∧ b64DecPad [0x5A, 0x67, 0x3D, 0x3D] 0 = .ok [0x66] ∧ b64DecPad [0x41, 0x42, 0x3D, 0x43] 4 = .error 7 :=
  ⟨lat64_packLatchesFor .decode, by decide⟩

theorem witness_FillEndConvertsTheLastWindow :
    ((fillState .decode [] [.eos]).stage = .fill ∧ (fillState .decode [] [.eos]).lat.path = .pack
        ∧ (fillState .decode [] [.eos]).inOffer = .eos :: [] ∧ (fillState .encode [] [.eos]).lat.dir = .encode
        ∧ (fillState .decode [] [.eos]).lat.dir = .decode)
      ∧ decFinal (lat64 .decode) tab64 [0x5A, 0x67, 0x3D, 0x3D] 0 = .ok [0x66]
      ∧ decFinal (lat64 .decode) tab64 [0x41, 0x42, 0x3D, 0x43] 0 = .error 3 := by decide

theorem witness_EmitBytePutsTheFirst :
    (emitState [0x35, 0x52] true [none]).stage = .emit ∧ (emitState [0x35, 0x52] true [none]).oq = 0x35 :: [0x52]
      ∧ (emitState [0x35, 0x52] true [none]).outAccept = none :: [] := by decide

theorem witness_EmitEndPutsEndOk :
    (emitState [] true [some .endOk]).stage = .emit ∧ (emitState [] true [some .endOk]).oq = []
      ∧ (emitState [] true [some .endOk]).eoseen = true
      ∧ (emitState [] true [some .endOk]).outAccept = some .endOk :: [] := by decide

theorem witness_EmitRefillReturnsToFill :
    (emitState [] false []).stage = .emit ∧ (emitState [] false []).oq = []
      ∧ (emitState [] false []).eoseen = false := by decide

theorem witness_FlushErrPutsEndErr :
    (errorState .flushErr false []).stage = .flushErr ∧ (errorState .flushErr true []).outAccept = none :: [] := by
  decide

theorem witness_DrainDiscardsTheRest :
    (errorState .drain false [.byte 1]).stage = .drain ∧ (errorState .drain false [.byte 1]).inOffer = .byte 1 :: []
      ∧ (errorState .drain false [.eos]).inOffer = .eos :: [] := by decide

/-- Each way of not being selected, on its own: TOK, DIR, PATH, OQ, EOSEEN, and no acceptance. -/
theorem witness_WaitingOperationsChangeNothing :
    (∀ b rest, (accState .encode [1] [.eos]).inOffer ≠ .byte b :: rest)
      ∧ (∀ rest, (fillState .decode [] [.byte 1]).inOffer ≠ .eos :: rest)
      ∧ (accState .decode [1] [.byte 0x32]).lat.dir ≠ .encode ∧ (accState .encode [1] [.byte 0]).lat.dir ≠ .decode
      ∧ (fillState .decode [] []).lat.path ≠ .acc ∧ (accState .encode [] []).lat.path ≠ .pack
      ∧ ((emitState [] true [none]).oq = [] ∧ (emitState [0x35] true [none]).oq ≠ [])
      ∧ ((emitState [] false [none]).eoseen = false ∧ (emitState [] true [none]).eoseen = true)
      ∧ (emitState [0x35] true []).outAccept = [] ∧ State.reset.stage ≠ .flushErr := by
  refine ⟨fun _ _ h => ?_, fun _ h => ?_, by decide, by decide, by decide, by decide, by decide, by decide, by decide⟩ <;>
    cases h

theorem witness_FixedTablesAreTheAlphabets :
    (∀ i, i < 64 → rom64 i ≠ 0x3D) ∧ ∀ i, i < 58 → rom58 i ≠ 0x30 := by decide

theorem witness_Base64RoundTrip :
    PackLatchesFor (lat64 .decode) 2 ∧ (lat64 .decode).codec = .base64
      ∧ decFinal (lat64 .decode) tab64 [0x5A, 0x67, 0x3D, 0x3D, 0x0A] 0 = .ok [0x66]
      ∧ 3 ∣ ([0x66, 0x6F, 0x6F] : List Byte).length :=
  ⟨lat64_packLatchesFor .decode, by decide, by decide, by decide⟩

/-- "====", "!B==", "Z===", "Zg!=" and "Zg=A"; and the digits of "Zg==" and "Zm8=". -/
theorem witness_PaddedGroupsHaveTwoForms :
    padByte ∈ ([0x5A, 0x67, 0x3D, 0x3D] : List Byte) ∧ tab64 0x3D = none ∧ tab64 0x21 = none
      ∧ (tab64 0x5A = some 25 ∧ tab64 0x67 = some 32 ∧ tab64 0x6D = some 38 ∧ tab64 0x38 = some 60)
      ∧ (tab64 0x5A).isSome ∧ (tab64 0x67).isSome ∧ (0x21#8 : Byte) ≠ padByte ∧ (0x41#8 : Byte) ≠ padByte := by decide

theorem witness_ConfigStoresItsFields : State.reset.busy = false ∧ (fillState .encode [] []).busy = true := by decide

theorem witness_WincfgStoresItsField : built.busy = false := by decide

theorem witness_AlphaWordsAreFourCells :
    built.alpha.wf = true ∧ built.busy = false ∧ (errorState .drain false []).busy = true
      ∧ (0 < 4 * (1#6).toNat ∧ 4 * (63#6).toNat + 4 ≤ 256) := by decide

theorem witness_DtabReadsItsEntry :
    Memory.find [(0x7F, 9), (0x80, 255)] (127#7).toNat = some 9 ∧ Memory.find [(0x7F, 9)] (0#7).toNat = none
      ∧ Memory.find [(0x7F, 9), (0x80, 255)] (128 + (0#7).toNat) = some 255
      ∧ Memory.find [(0x7F, 9)] (128 + (127#7).toNat) = none := by decide

theorem witness_ImproperAccessIsABusError :
    (BusAccess.mk false 2 0x000#12 0).bytes ≠ 4 ∧ (BusAccess.mk true 4 0xFFF#12 0).off.toNat % 4 ≠ 0 := by decide

/-- The first and the last offsets of each range. -/
theorem witness_UnlistedOffsetsReadZero :
    ((0x020#12).toNat % 4 = 0 ∧ 0x020 ≤ (0x020#12).toNat ∧ (0x0FC#12).toNat < 0x100)
      ∧ 0x600 ≤ (0x600#12).toNat ∧ (0xFFC#12).toNat % 4 = 0 ∧ 0x010 ≤ (0x010#12).toNat ∧ 0x200 ≤ (0x200#12).toNat := by
  decide

theorem witness_ResetEventClearsTheBlock :
    (turns [.reset, .engine] (accState .encode [1] [])).agenda = .reset :: [.engine] := by decide

/-- A guarded write to a busy block, a reset, an accepted command, and a turn that is none of them. -/
theorem witness_WignChangesOnlyAsStated :
    ((∃ t, step (turns [wrTurn 0x004#12 3] (accState .encode [1] [])) = .next t)
        ∧ isGuardedWrite (wrTurn 0x004#12 3) = true ∧ (accState .encode [1] []).busy = true)
      ∧ (∃ t, step (turns [.reset] (accState .encode [1] [])) = .next t)
      ∧ ((∃ t, step (turns [cmdTurn 3] State.reset) = .next t) ∧ isCommandTurn (cmdTurn 3) = true
        ∧ State.reset.busy = false)
      ∧ ((∃ t, step (turns [cmdTurn 0] (accState .encode [1] [])) = .next t) ∧ isGuardedWrite (cmdTurn 0) = false
        ∧ isCommandTurn (cmdTurn 0) = false)
      ∧ (accState .encode [1] [.byte 0]).agenda = [] ∧ ∃ t, step (accState .encode [1] [.byte 0]) = .next t :=
  ⟨⟨⟨_, rfl⟩, by decide⟩, ⟨_, rfl⟩, ⟨⟨_, rfl⟩, by decide⟩, ⟨⟨_, rfl⟩, by decide⟩, by decide, ⟨_, rfl⟩⟩

theorem witness_BusyFreezesTheConfiguration :
    (turns [cmdTurn 2] (accState .encode [1] [])).busy = true
      ∧ (∀ rest, (turns [cmdTurn 2] (accState .encode [1] [])).agenda ≠ .reset :: rest)
      ∧ ∃ t, step (turns [cmdTurn 2] (accState .encode [1] [])) = .next t :=
  ⟨by decide, (fun _ h => by cases h), ⟨_, rfl⟩⟩

theorem witness_RestingStatesWaitForACommand :
    (turns [.engine] (errorState .error true [.byte 1])).stage = .error
      ∧ (∀ u rest, (turns [.engine] (errorState .error true [.byte 1])).agenda = u :: rest →
        isCommandTurn u = false ∧ u ≠ .reset)
      ∧ (∀ rest, (turns [.engine] (errorState .error true [.byte 1])).agenda ≠ .withdraw :: rest)
      ∧ ∃ t, step (turns [.engine] (errorState .error true [.byte 1])) = .next t :=
  ⟨by decide, (fun _ _ h => by cases h; decide), (fun _ h => by cases h), ⟨_, rfl⟩⟩

theorem witness_TokensKeepTheirOrder :
    (∃ t, step (turns [.wait .taken] (accState .encode [1] [.byte 0])) = .next t)
      ∧ (∃ t, step (turns [.withdraw] (accState .encode [1] [.byte 0])) = .next t)
      ∧ ∃ t, step (emitState [0x35] true [none]) = .next t := ⟨⟨_, rfl⟩, ⟨_, rfl⟩, ⟨_, rfl⟩⟩

theorem witness_StepKeepsTheErrorRegisters :
    StatusInv (errorState .flushErr false []) ∧ ∃ t, step (errorState .flushErr false []) = .next t :=
  ⟨⟨by decide, by decide⟩, ⟨_, rfl⟩⟩

theorem built_tableInv : TableInv built := by
  intro _
  refine ⟨rfl, by decide, by decide, by decide, fun c v h => ?_⟩
  have hm : ∀ x ∈ built.tabc, x.2.toNat < built.tradix.toNat ∧ (built.alpha.read x.2.toNat).toNat = x.1 := by decide
  have hf : (c, v) ∈ built.tabc := by
    have h3 : built.tabc.find c =
        if c = 0x61 then some 0 else if c = 0x62 then some 1 else if c = 0x63 then some 2 else none := rfl
    rw [h3] at h
    split at h
    · cases h; subst c; decide
    · split at h
      · cases h; subst c; decide
      · split at h
        · cases h; subst c; decide
        · cases h
  exact hm (c, v) hf

theorem witness_StepKeepsTheTableValid :
    TableInv (turns [wrTurn 0x008#12 5] built) ∧ built.tableValid = true
      ∧ ∃ t, step (turns [wrTurn 0x008#12 5] built) = .next t := ⟨built_tableInv, by decide, ⟨_, rfl⟩⟩

theorem witness_StepKeepsTheMemoryForm :
    MemoryInv (turns [wrTurn 0x100#12 0] built) ∧ ∃ t, step (turns [wrTurn 0x100#12 0] built) = .next t :=
  ⟨⟨by decide, by decide⟩, ⟨_, rfl⟩⟩

/-- A base58 encode with D = [1] and a byte on IN meets the whole invariant. -/
theorem accState_inv : Inv (accState .encode [1] [.byte 0]) := by
  refine ⟨by decide, ⟨by decide, by decide⟩, ⟨by decide, by decide⟩, fun h => ?_, ⟨?_, ?_, by decide, by decide⟩, ?_, ?_⟩
  · cases h
  · exact fun _ => ⟨⟨by decide, by decide, by decide, by decide⟩, by decide⟩
  · rintro (h | ⟨h, _⟩) <;> cases h
  · exact fun _ => ⟨by decide, by decide, by decide⟩
  · exact ⟨by decide, by decide, by decide, by decide⟩

theorem witness_StepKeepsTheInvariant :
    Inv (accState .encode [1] [.byte 0]) ∧ ∃ t, step (accState .encode [1] [.byte 0]) = .next t :=
  ⟨accState_inv, ⟨_, rfl⟩⟩

theorem witness_InvariantStepNeverStops :
    Inv (accState .encode [1] [.byte 0]) ∧ NextWordLegal (accState .encode [1] [.byte 0]) :=
  ⟨accState_inv, fun _ _ h => by cases h⟩

/-- What a witness of a whole message starts from: the message, its End and one token after it on IN. -/
def begun (lat : Latches) (m : List Byte) : State :=
  { State.reset with
    stage := startStage lat.path, lat := lat, inOffer := m.map InToken.byte ++ [.eos, .byte 9]
    outAccept := [none, none, none, none, none, none, none, none, none] }

/-- base58 of [0x01, 0x00] is "5R" (R126's example); '0' in a base58 text faults at 1 (R125's). -/
theorem witness_AccMessageEndsAsConverted :
    (∀ dir m, Begun (begun (lat58 dir) m) m [.byte 9] ∧ AccLatches (begun (lat58 dir) m))
      ∧ convert (begun (lat58 .encode) [1, 0]) [1, 0] = .ok [0x35, 0x52]
      ∧ [0x35, 0x52].length < (begun (lat58 .encode) [1, 0]).outAccept.length
      ∧ convert (begun (lat58 .decode) [0x32, 0x30]) [0x32, 0x30] = .err .invalidCharacter 1
      ∧ (begun (lat58 .decode) [0x32, 0x30]).outAccept ≠ [] := by
  refine ⟨fun dir m => ⟨⟨rfl, rfl, rfl, rfl, rfl, rfl, rfl, rfl, rfl, rfl⟩, ⟨rfl, ?_, ?_, ?_⟩⟩, ?_⟩
  · show geometry 58 = none
    decide
  · show 3 ≤ (58#9).toNat
    decide
  · show (58#9).toNat ≤ 256
    decide
  · decide

theorem begun_lat64 (dir : Dir) (m : List Byte) : Begun (begun (lat64 dir) m) m [.byte 9] := by
  cases dir <;> exact ⟨rfl, rfl, rfl, rfl, rfl, rfl, rfl, rfl, rfl, rfl⟩

/-- "foo" to "Zm9v", and "Zg==" with a trailing newline to "f" (R195). -/
theorem witness_PackMessageIsWindowIndependent :
    (∀ dir m, Begun (begun (lat64 dir) m) m [.byte 9] ∧ PackLatchesFor (begun (lat64 dir) m).lat 2)
      ∧ convert (begun (lat64 .encode) [0x66, 0x6F, 0x6F]) [0x66, 0x6F, 0x6F] = .ok [0x5A, 0x6D, 0x39, 0x76]
      ∧ convert (begun (lat64 .decode) [0x5A, 0x67, 0x3D, 0x3D, 0x0A]) [0x5A, 0x67, 0x3D, 0x3D, 0x0A] = .ok [0x66]
      ∧ ([0x5A, 0x6D, 0x39, 0x76] : List Byte).length < (begun (lat64 .encode) [0x66, 0x6F, 0x6F]).outAccept.length :=
  ⟨fun dir m => ⟨begun_lat64 dir m, lat64_packLatchesFor dir⟩, by decide, by decide, by decide⟩

/-- "Zg==Zg==" faults at index 2 (R194). -/
theorem witness_PackDecodeFaultIsWindowIndependent :
    Begun (begun (lat64 .decode) [0x5A, 0x67, 0x3D, 0x3D, 0x5A, 0x67, 0x3D, 0x3D])
        [0x5A, 0x67, 0x3D, 0x3D, 0x5A, 0x67, 0x3D, 0x3D] [.byte 9]
      ∧ PackLatchesFor (lat64 .decode) 2 ∧ (lat64 .decode).dir = .decode
      ∧ convert (begun (lat64 .decode) []) [0x5A, 0x67, 0x3D, 0x3D, 0x5A, 0x67, 0x3D, 0x3D] =
        .err .invalidCharacter 2
      ∧ 8 < (begun (lat64 .decode) []).outAccept.length :=
  ⟨begun_lat64 .decode _, lat64_packLatchesFor .decode, by decide, by decide, by decide⟩

end Sys2Proof.Tests
end

section
/-! PROOF. What an operation of the engine leaves alone. -/

namespace Sys2Proof.Machine

/-- The pieces of State that no operation of the engine writes are the same in s and t: the parameters, the
registers the host writes, the tables, the latches, WIGN, the bus answer and the agenda. -/
structure EngineKeeps (s t : State) : Prop where
  params : t.params = s.params
  config : t.config = s.config
  winGroups : t.winGroups = s.winGroups
  tableValid : t.tableValid = s.tableValid
  wign : t.wign = s.wign
  alpha : t.alpha = s.alpha
  tabc : t.tabc = s.tabc
  tradix : t.tradix = s.tradix
  lat : t.lat = s.lat
  busData : t.busData = s.busData
  busError : t.busError = s.busError
  agenda : t.agenda = s.agenda

theorem EngineKeeps.refl (s : State) : EngineKeeps s s := by constructor <;> rfl

theorem EngineKeeps.trans {s t u : State} (h : EngineKeeps s t) (h' : EngineKeeps t u) : EngineKeeps s u where
  params := h'.params.trans h.params
  config := h'.config.trans h.config
  winGroups := h'.winGroups.trans h.winGroups
  tableValid := h'.tableValid.trans h.tableValid
  wign := h'.wign.trans h.wign
  alpha := h'.alpha.trans h.alpha
  tabc := h'.tabc.trans h.tabc
  tradix := h'.tradix.trans h.tradix
  lat := h'.lat.trans h.lat
  busData := h'.busData.trans h.busData
  busError := h'.busError.trans h.busError
  agenda := h'.agenda.trans h.agenda

/-! ### The engine's effects -/

theorem finishAccStep_keeps (d' : Option (List Byte)) (p : Nat) (s : State) :
    EngineKeeps s (finishAccStep d' p (takeByte s)) := by
  rcases finishAccStep_cases d' p (takeByte s) with ⟨d, -, h⟩ | ⟨-, h⟩ <;> rw [h]
  · constructor <;> simp
  · constructor <;> simp [raiseAccFault]

theorem accDecByteEffect_keeps (b : Byte) (s : State) : EngineKeeps s (accDecByteEffect b s) := by
  rcases accDecByteEffect_cases b s with ⟨-, h⟩ | ⟨v, -, h⟩ <;> rw [h]
  · constructor <;> simp [raiseAccFault]
  · exact finishAccStep_keeps _ _ s

theorem fullDecodeWindow_keeps (x : List Byte) (s : State) : EngineKeeps s (fullDecodeWindow x (takeByte s)) := by
  rcases fullDecodeWindow_cases x (takeByte s) with ⟨p, -, h⟩ | ⟨out, -, h⟩ <;> rw [h]
  · constructor <;> simp [raiseWindowFault]
  · constructor <;> simp

theorem fillByteEffect_keeps (b : Byte) (s : State) : EngineKeeps s (fillByteEffect b s) := by
  rcases fillByteEffect_cases b s with ⟨-, h⟩ | ⟨-, -, h⟩ | ⟨-, -, h⟩ <;> rw [h]
  · constructor <;> simp
  · constructor <;> simp [fullEncodeWindow]
  · exact fullDecodeWindow_keeps _ s

theorem fillEndEffect_keeps (s : State) : EngineKeeps s (fillEndEffect s) := by
  rcases fillEndEffect_cases s with ⟨p, -, h⟩ | ⟨out, -, h⟩ <;> rw [h]
  · constructor <;> simp [raiseWindowFault]
  · constructor <;> simp

theorem putToken_keeps {x : OutToken} {s t : State} (h : putToken x s = some t) : EngineKeeps s t := by
  obtain ⟨e, rest, -, rfl⟩ := putToken_some.1 h
  constructor <;> rfl

/-! ### The engine's operations: each waits, or has its effect -/

theorem execAccEncByte_keeps (c : Codec) {s t : State} (h : execAccEncByte c s = .next t) : EngineKeeps s t := by
  unfold execAccEncByte at h
  split at h <;> cases h
  · exact finishAccStep_keeps _ _ s
  · exact .refl s

theorem execAccDecByte_keeps (c : Codec) {s t : State} (h : execAccDecByte c s = .next t) : EngineKeeps s t := by
  unfold execAccDecByte at h
  split at h <;> cases h
  · exact accDecByteEffect_keeps _ s
  · exact .refl s

theorem execAccEnd_keeps (d : Dir) (c : Codec) {s t : State} (h : execAccEnd d c s = .next t) : EngineKeeps s t := by
  unfold execAccEnd at h
  split at h <;> cases h <;> constructor <;> rfl

theorem execFillByte_keeps (d : Dir) (c : Codec) {s t : State} (h : execFillByte d c s = .next t) :
    EngineKeeps s t := by
  unfold execFillByte at h
  split at h <;> cases h
  · exact fillByteEffect_keeps _ s
  · exact .refl s

theorem execFillEnd_keeps (d : Dir) (c : Codec) {s t : State} (h : execFillEnd d c s = .next t) :
    EngineKeeps s t := by
  unfold execFillEnd at h
  split at h <;> cases h
  · exact fillEndEffect_keeps s
  · exact .refl s

theorem execEmitByte_keeps (d : Dir) (p : Path) (c : Codec) {s t : State} (h : execEmitByte d p c s = .next t) :
    EngineKeeps s t := by
  unfold execEmitByte at h
  repeat' split at h
  all_goals cases h
  · exact (putToken_keeps ‹_›).trans (by constructor <;> rfl)
  · exact .refl s
  · exact .refl s

theorem execEmitEnd_keeps (d : Dir) (p : Path) (c : Codec) {s t : State} (h : execEmitEnd d p c s = .next t) :
    EngineKeeps s t := by
  unfold execEmitEnd at h
  repeat' split at h
  all_goals cases h
  · exact (putToken_keeps ‹_›).trans (by constructor <;> rfl)
  · exact .refl s
  · exact .refl s

theorem execEmitRefill_keeps (d : Dir) (p : Path) (c : Codec) {s t : State} (h : execEmitRefill d p c s = .next t) :
    EngineKeeps s t := by
  unfold execEmitRefill at h
  split at h <;> cases h <;> constructor <;> rfl

theorem execFlushErr_keeps (d : Dir) (p : Path) (c : Codec) {s t : State} (h : execFlushErr d p c s = .next t) :
    EngineKeeps s t := by
  unfold execFlushErr at h
  repeat' split at h
  all_goals cases h
  · exact (putToken_keeps ‹_›).trans (by constructor <;> rfl)
  · exact .refl s
  · exact .refl s

theorem execDrainByte_keeps (d : Dir) (p : Path) (c : Codec) {s t : State} (h : execDrainByte d p c s = .next t) :
    EngineKeeps s t := by
  unfold execDrainByte at h
  split at h <;> cases h <;> constructor <;> rfl

theorem execDrainEnd_keeps (d : Dir) (p : Path) (c : Codec) {s t : State} (h : execDrainEnd d p c s = .next t) :
    EngineKeeps s t := by
  unfold execDrainEnd at h
  split at h <;> cases h <;> constructor <;> rfl

/-! ### Engine turns -/

/-- The rows of DSEL8: the operations the engine selects for itself (R88). -/
def isEngineOperation : Instr → Bool
  | .accEncByte _ | .accDecByte _ | .accEnd _ _ | .fillByte _ _ | .fillEnd _ _ | .emitByte _ _ _ | .emitEnd _ _ _
  | .emitRefill _ _ _ | .flushErr _ _ _ | .drainByte _ _ _ | .drainEnd _ _ _ => true
  | _ => false

/-- A selector has an operation of the engine, or none (R88). -/
theorem isEngineOperation_of_decodeSelector {sel : Selector} {i : Instr} (h : decodeSelector sel = .ok i) :
    isEngineOperation i = true := by
  unfold decodeSelector at h
  dsimp only at h
  split at h <;> cases h
  all_goals repeat' split
  all_goals simp only [isEngineOperation]

/-- Whatever operation the engine selects, it keeps what it does not own. -/
theorem exec_engineOperation_keeps {i : Instr} {s t : State} (hi : isEngineOperation i = true)
    (h : exec i s = .next t) : EngineKeeps s t := by
  cases i with
  | accEncByte c => exact execAccEncByte_keeps c h
  | accDecByte c => exact execAccDecByte_keeps c h
  | accEnd d c => exact execAccEnd_keeps d c h
  | fillByte d c => exact execFillByte_keeps d c h
  | fillEnd d c => exact execFillEnd_keeps d c h
  | emitByte d p c => exact execEmitByte_keeps d p c h
  | emitEnd d p c => exact execEmitEnd_keeps d p c h
  | emitRefill d p c => exact execEmitRefill_keeps d p c h
  | flushErr d p c => exact execFlushErr_keeps d p c h
  | drainByte d p c => exact execDrainByte_keeps d p c h
  | drainEnd d p c => exact execDrainEnd_keeps d p c h
  | _ => cases hi

/-- An engine turn keeps whatever the engine does not own. -/
theorem engineTurn_keeps {s t : State} (h : engineTurn s = .next t) : EngineKeeps s t := by
  rcases engineTurn_next h with ⟨sel, i, -, hi, he⟩ | rfl
  · exact exec_engineOperation_keeps (isEngineOperation_of_decodeSelector hi) he
  · exact .refl t

end Sys2Proof.Machine
end

section
/-! PROOF. What a host word does to the registers: the fields of a register word, the bus accesses and the commands. -/

namespace Sys2Proof.Machine

/-! ### Register words -/

@[simp] theorem codecBits_codecOfBits : ∀ v : BitVec 2, codecBits (codecOfBits v) = v := by decide

@[simp] theorem dirBit_dirOfBit : ∀ b : Bool, dirBit (dirOfBit b) = b := by decide

/-- CONFIG's fields as read (R23). -/
theorem configWord_fields (c : ConfigReg) :
    (configWord c).extractLsb' 0 9 = c.radix ∧ (configWord c).extractLsb' 9 3 = 0#3
      ∧ (configWord c).extractLsb' 12 2 = codecBits c.codec ∧ (configWord c).extractLsb' 14 2 = 0#2
      ∧ (configWord c).getLsbD 16 = dirBit c.dir ∧ (configWord c).extractLsb' 17 15 = 0#15 := by
  unfold configWord
  simp (disch := decide) only [BitVec.extractLsb'_append_eq_of_le, BitVec.extractLsb'_append_eq_of_add_le,
    BitVec.extractLsb'_eq_self, BitVec.getLsbD_append, BitVec.getLsbD_ofBool, Nat.reduceSub, Nat.reduceLT, if_false,
    if_true, decide_true, Bool.true_and, and_self]

/-- STATUS's fields as read (R27). -/
theorem statusWord_fields (s : State) :
    (statusWord s).getLsbD 0 = stageBusy s.stage ∧ (statusWord s).getLsbD 1 = stageDone s.stage
      ∧ (statusWord s).getLsbD 2 = stageErr s.stage ∧ (statusWord s).getLsbD 3 = s.tableValid
      ∧ (statusWord s).getLsbD 4 = s.wign ∧ (statusWord s).extractLsb' 5 3 = 0#3
      ∧ (statusWord s).extractLsb' 8 4 = s.errcode ∧ (statusWord s).extractLsb' 12 3 = stageBits s.stage
      ∧ (statusWord s).extractLsb' 15 17 = 0#17 := by
  unfold statusWord
  simp (disch := decide) only [BitVec.extractLsb'_append_eq_of_le, BitVec.extractLsb'_append_eq_of_add_le,
    BitVec.extractLsb'_eq_self, BitVec.getLsbD_append, BitVec.getLsbD_ofBool, Nat.reduceSub, Nat.reduceLT, if_false,
    if_true, decide_true, Bool.true_and, and_self]

theorem stageBusy_iff (st : Stage) : stageBusy st = true ↔ st ∈ [.accRun, .fill, .emit, .flushErr, .drain] := by
  cases st <;> decide

theorem stageDone_iff (st : Stage) : stageDone st = true ↔ st = .done := by cases st <;> decide

theorem stageErr_iff (st : Stage) : stageErr st = true ↔ st ∈ [.error, .flushErr, .drain] := by
  cases st <;> decide

/-- The four lanes of an ALPHA word as read (R36). -/
theorem lane_alphaWord (alpha : Memory) (j : Nat) {m : Nat} (hm : m < 4) :
    (alphaWord alpha j).extractLsb' (8 * m) 8 = alpha.read (4 * j + m) := by
  unfold alphaWord
  interval_cases m <;>
    simp (disch := decide) only [BitVec.extractLsb'_append_eq_of_le, BitVec.extractLsb'_append_eq_of_add_le,
      BitVec.extractLsb'_eq_self, Nat.reduceMul, Nat.reduceSub, Nat.add_zero]

/-! ### ALPHA's cells -/

/-- A stored ALPHA word is read back lane by lane (R36). -/
theorem read_storeAlphaWord_same {alpha : Memory} (h : alpha.wf = true) {j : Nat} (hj : j < 64) (v : Word) {m : Nat}
    (hm : m < 4) : (storeAlphaWord alpha j v).read (4 * j + m) = lane v m := by
  have h0 := Memory.write_keeps_wf (a := 4 * j) (lane v 0) (by omega) h
  have h1 := Memory.write_keeps_wf (a := 4 * j + 1) (lane v 1) (by omega) h0
  have h2 := Memory.write_keeps_wf (a := 4 * j + 2) (lane v 2) (by omega) h1
  unfold storeAlphaWord
  interval_cases m <;>
    simp [Memory.read_write_other, Memory.read_write_same, Memory.rising_of_wf, h, h0, h1, h2]

/-- Storing an ALPHA word leaves every other cell (R36). -/
theorem read_storeAlphaWord_other (alpha : Memory) (j : Nat) (v : Word) {a : Nat} (ha : a < 4 * j ∨ 4 * j + 4 ≤ a) :
    (storeAlphaWord alpha j v).read a = alpha.read a := by
  unfold storeAlphaWord
  rw [Memory.read_write_other _ _ _ _ (by omega), Memory.read_write_other _ _ _ _ (by omega),
    Memory.read_write_other _ _ _ _ (by omega), Memory.read_write_other _ _ _ _ (by omega)]

/-! ### Register writes -/

theorem writeUnlessBusy_of_busy {s : State} (effect : State → State) (h : s.busy = true) :
    writeUnlessBusy effect s = { s with wign := true } := by
  simp [writeUnlessBusy, h]

theorem writeUnlessBusy_of_not_busy {s : State} (effect : State → State) (h : s.busy = false) :
    writeUnlessBusy effect s = effect s := by
  simp [writeUnlessBusy, h]

/-- A proper write to an offset whose writes are ignored decodes to a reserved access, which changes nothing but the
bus answer (R63). -/
theorem ignoredWrite {off : BitVec 12} (ha : off.extractLsb' 0 2 = 0#2) (hw : writableOffset off.toNat = false)
    (v : Word) (s : State) :
    decode (.host (.bus ⟨true, 4, off, v⟩)) = .ok (.reservedAccess ⟨true, 4, off, v⟩)
      ∧ exec (.reservedAccess ⟨true, 4, off, v⟩) s = .next { s with busError := false } := by
  refine ⟨congrArg Except.ok (Laws.decodeBus_reserved _ ?_), ?_⟩
  · simp [BusAccess.reserved, hw]
  · simp [exec, execReservedAccess, ha, busWrote]

/-- A command word's row issues that word (R100). -/
theorem exec_decodeCommand (w : Word) (s : State) : exec (decodeCommand w) s = .next (issueCommand w s) := by
  unfold decodeCommand
  split_ifs with h0 h1 h2
  · rw [h0]; rfl
  · rw [h1]; rfl
  · rw [h2]; rfl
  · have hw : w.extractLsb' 4 28 ++ w.extractLsb' 0 4 = w :=
      BitVec.extractLsb'_append_extractLsb'_eq_extractLsb' (by decide) |>.trans BitVec.extractLsb'_eq_self
    exact congrArg (fun u => Host.Outcome.next (issueCommand u s)) hw

end Sys2Proof.Machine

section
open Sys2Proof Sys2Proof.Machine

/-- Settles O36: the write decodes to a reserved access, which is ignored. -/
theorem idIsConstant : Obligations.IdIsConstant := by
  intro s
  exact ⟨fun v => rfl, rfl, fun v => ignoredWrite (by decide) (by decide) v s⟩

/-- Settles O37: by whether the block is busy, and the fields of the word for the read. -/
theorem configStoresItsFields : Obligations.ConfigStoresItsFields := by
  intro s
  refine ⟨fun v hb => ⟨busWrote (storeConfig v s), ?_, ?_, rfl, codecBits_codecOfBits _, dirBit_dirOfBit _⟩,
    fun v hb => ?_, configWord s.config, rfl, configWord_fields s.config⟩
  · simp [exec, execWrConfig, writeUnlessBusy_of_not_busy, hb]
  · by_cases h : v.extractLsb' 0 9 = s.config.radix <;> simp [busWrote, storeConfig, configOfWord, h]
  · simp [exec, execWrConfig, writeUnlessBusy_of_busy, hb, busWrote]

/-- Settles O39: both issue the word. -/
theorem cmdIssuesItsWord : Obligations.CmdIssuesItsWord := fun s =>
  ⟨fun w => ⟨issueCommand w s, exec_decodeCommand w s, rfl⟩, rfl⟩

/-- Settles O40: the fields of the word, and a write to STATUS is an ignored one. -/
theorem statusHasItsFields : Obligations.StatusHasItsFields := by
  refine ⟨fun s => ⟨statusWord s, rfl, ?_⟩, fun s v => ignoredWrite (by decide) (by decide) v s, by decide⟩
  obtain ⟨hbusy, hdone, herr, hrest⟩ := statusWord_fields s
  rw [hbusy, hdone, herr]
  exact ⟨stageBusy_iff _, stageDone_iff _, stageErr_iff _, hrest⟩

/-- Settles O42: four writes one after another, read back through the canonical form. -/
theorem alphaWordsAreFourCells : Obligations.AlphaWordsAreFourCells := by
  intro s j hwf
  refine ⟨fun v hb => ⟨busWrote (storeAlpha j.toNat v s), ?_, rfl, ?_, ?_⟩, fun v hb => ?_,
    alphaWord s.alpha j.toNat, rfl, fun m hm => lane_alphaWord s.alpha j.toNat hm⟩
  · simp [exec, execWrAlpha, writeUnlessBusy_of_not_busy, hb]
  · exact fun m hm => read_storeAlphaWord_same hwf j.isLt v hm
  · exact fun a ha => read_storeAlphaWord_other s.alpha j.toNat v ha
  · simp [exec, execWrAlpha, writeUnlessBusy_of_busy, hb, busWrote]
end
end

section
/-! PROOF. What every turn does to WIGN (R30): engine turns by what the engine keeps, host words by what they write. -/

namespace Sys2Proof.Machine

/-! ### WIGN under the operations of the registers -/

theorem writeUnlessBusy_wign {effect : State → State} {s : State} (h : (effect s).wign = s.wign) :
    (writeUnlessBusy effect s).wign = (s.busy || s.wign) := by
  rcases writeUnlessBusy_cases effect s with ⟨hb, he⟩ | ⟨hb, he⟩ <;> rw [he] <;> simp [hb, h]

theorem buildEffect_wign (s : State) : (buildEffect s).wign = s.wign := by
  rcases buildEffect_cases s with ⟨-, h⟩ | ⟨-, -, ⟨j, -, h⟩ | ⟨-, h⟩⟩ <;> simp [h]

theorem startEffect_wign (s : State) : (startEffect s).wign = s.wign := by
  rcases startEffect_cases s with ⟨code, -, h⟩ | ⟨lat, -, h⟩ <;> simp [h]

theorem issueCommand_nop (s : State) : issueCommand 0 s = s := by
  rcases issueCommand_cases 0 s with ⟨-, h⟩ | ⟨h, -⟩ | ⟨h, -⟩ | ⟨h, -⟩ | ⟨h, -⟩
  · exact h
  · exact absurd rfl h
  · exact absurd h (by decide)
  · exact absurd h (by decide)
  · exact absurd rfl h

/-- A command other than NOP sets WIGN while busy, and clears it when it is accepted (R30, R101). -/
theorem issueCommand_wign {w : Word} (hw : w ≠ 0) (s : State) : (issueCommand w s).wign = s.busy := by
  rcases issueCommand_cases w s with ⟨h, -⟩ | ⟨-, hb, h⟩ | ⟨-, hb, h⟩ | ⟨-, hb, h⟩ | ⟨-, -, -, hb, h⟩
  · exact absurd h hw
  · rw [h, hb]
  · rw [h, hb, buildEffect_wign, acceptCommand_wign]
  · rw [h, hb, startEffect_wign, acceptCommand_wign]
  · rw [h, hb, raiseFault_wign, acceptCommand_wign]

/-- The rows of BUS32 that reach the block but change nothing of it: the reads and the reserved accesses (R62 to R64). -/
def isReadOrReserved : Instr → Bool
  | .rdId | .rdConfig | .rdWincfg | .rdCmd | .rdStatus | .rdErrpos | .rdIncnt | .rdOutcnt | .rdAlpha _ | .rdDtab _
  | .rdDtabHi _ | .reservedAccess _ => true
  | _ => false

theorem decodeRead_isReadOrReserved (a : BusAccess) : isReadOrReserved (decodeRead a) = true := by
  simp only [decodeRead, apply_ite isReadOrReserved]
  simp only [isReadOrReserved, ite_self]

/-- Such a row writes only the bus answer. -/
theorem exec_readOrReserved {i : Instr} (hi : isReadOrReserved i = true) (s : State) :
    ∃ v e, exec i s = .next { s with busData := v, busError := e } := by
  cases i with
  | rdId | rdConfig | rdWincfg | rdCmd | rdStatus | rdErrpos | rdIncnt | rdOutcnt | rdAlpha | rdDtab | rdDtabHi =>
    exact ⟨_, false, rfl⟩
  | reservedAccess a =>
    simp only [exec, execReservedAccess]
    split_ifs
    · exact ⟨s.busData, false, rfl⟩
    · exact ⟨0, false, rfl⟩
    · exact ⟨_, true, rfl⟩
  | _ => cases hi

theorem exec_readOrReserved_wign {i : Instr} {s t : State} (hi : isReadOrReserved i = true)
    (h : exec i s = .next t) : t.wign = s.wign := by
  obtain ⟨v, e, he⟩ := exec_readOrReserved hi s
  obtain rfl := Host.Outcome.next.inj (he.symm.trans h)
  rfl

/-! ### What a turn does to WIGN -/

/-- WIGN after a turn (R30): reset clears it, a command leaves it at BUSY, another guarded write sets it while busy. -/
def wignAfter (u : Turn) (s : State) : Bool :=
  if u = .reset then false
  else if isCommandTurn u then s.busy
  else if isGuardedWrite u then s.busy || s.wign
  else s.wign

/-- Every command is a guarded write. -/
theorem isGuardedWrite_of_isCommandTurn {u : Turn} (h : isCommandTurn u = true) : isGuardedWrite u = true := by
  cases u with
  | word w =>
    cases w with
    | cmd => exact h
    | bus a =>
      simp only [isCommandTurn, Bool.and_eq_true, beq_iff_eq] at h
      obtain ⟨⟨⟨hw, hb⟩, ho⟩, hd⟩ := h
      simpa [isGuardedWrite, hw, hb, ho] using hd
    | push => cases h
    | pop => cases h
  | _ => cases h

theorem wignAfter_of_unguarded {u : Turn} (hr : u ≠ .reset) (hg : isGuardedWrite u = false) (s : State) :
    wignAfter u s = s.wign := by
  have hc : isCommandTurn u = false := by
    cases hc : isCommandTurn u
    · rfl
    · exact absurd (isGuardedWrite_of_isCommandTurn hc) (by simp [hg])
  simp [wignAfter, hr, hc, hg]

theorem wignAfter_of_guarded {u : Turn} (hr : u ≠ .reset) (hc : isCommandTurn u = false)
    (hg : isGuardedWrite u = true) (s : State) : wignAfter u s = (s.busy || s.wign) := by
  simp [wignAfter, hr, hc, hg]

theorem wignAfter_of_command {u : Turn} (hc : isCommandTurn u = true) (s : State) : wignAfter u s = s.busy := by
  have hr : u ≠ .reset := by
    rintro rfl
    cases hc
  simp [wignAfter, hr, hc]

/-- The command words: NOP is no guarded write, every other word is a command. -/
theorem issueCommand_wignAfter (w : Word) (s : State) :
    (issueCommand w s).wign = wignAfter (.word (.cmd w)) s := by
  by_cases h0 : w = 0
  · rw [h0, issueCommand_nop, wignAfter_of_unguarded (by simp) rfl]
  · rw [issueCommand_wign h0, wignAfter_of_command (by simpa [isCommandTurn] using h0)]

/-- The offsets of the ALPHA window (R22), by the table's match and mask. -/
theorem alphaWindow_iff : ∀ off : BitVec 12,
    off &&& 0xF03#12 = 0x100#12 ↔ off.toNat % 4 = 0 ∧ 0x100 ≤ off.toNat ∧ off.toNat < 0x200 := by
  decide +kernel

/-- A proper register write, by the register its offset names. -/
theorem exec_decodeWrite_wign {off : BitVec 12} {v : Word} {s t : State} (ha : off.toNat % 4 = 0)
    (h : exec (decodeWrite ⟨true, 4, off, v⟩) s = .next t) :
    t.wign = wignAfter (.word (.bus ⟨true, 4, off, v⟩)) s := by
  unfold decodeWrite at h
  dsimp only at h
  split_ifs at h with hconfig hwincfg hcmd halpha
  · subst hconfig
    cases h
    rw [wignAfter_of_guarded (by simp) rfl (by simp [isGuardedWrite])]
    exact writeUnlessBusy_wign rfl
  · subst hwincfg
    cases h
    rw [wignAfter_of_guarded (by simp) rfl (by simp [isGuardedWrite])]
    exact writeUnlessBusy_wign rfl
  · subst hcmd
    cases h
    rw [busWrote_wign, issueCommand_wignAfter]
    simp [wignAfter, isCommandTurn, isGuardedWrite]
  · cases h
    obtain ⟨-, hlo, hhi⟩ := (alphaWindow_iff off).1 halpha
    rw [wignAfter_of_guarded (by simp) (by simp [isCommandTurn, hcmd]) (by simp [isGuardedWrite, ha, hlo, hhi])]
    exact writeUnlessBusy_wign rfl
  · have hwin : ¬(0x100 ≤ off.toNat ∧ off.toNat < 0x200) := fun hw => halpha ((alphaWindow_iff off).2 ⟨ha, hw⟩)
    rw [wignAfter_of_unguarded (by simp) (by simpa [isGuardedWrite, ha, hconfig, hwincfg, hcmd] using hwin)]
    exact exec_readOrReserved_wign rfl h

/-- A register access: only a proper write is guarded. -/
theorem exec_decodeBus_wign {a : BusAccess} {s t : State} (h : exec (decodeBus a) s = .next t) :
    t.wign = wignAfter (.word (.bus a)) s := by
  obtain ⟨write, bytes, off, v⟩ := a
  unfold decodeBus at h
  split_ifs at h with hp hw
  · obtain ⟨rfl, ha⟩ := hp
    obtain rfl := hw
    exact exec_decodeWrite_wign ((Laws.aligned_iff off).1 ha) h
  · rw [wignAfter_of_unguarded (by simp) (by simp_all [isGuardedWrite])]
    exact exec_readOrReserved_wign (decodeRead_isReadOrReserved _) h
  · rw [Laws.aligned_iff] at hp
    rw [wignAfter_of_unguarded (by simp) (by simp_all [isGuardedWrite])]
    exact exec_readOrReserved_wign rfl h

/-- A token word of either port leaves WIGN. -/
theorem exec_decodeInWord_wign {w : BitVec 9} {s t : State} (h : exec (decodeInWord w) s = .next t) :
    t.wign = s.wign := by
  unfold decodeInWord at h
  split_ifs at h <;> cases h <;> rfl

theorem exec_decodeOutWord_wign {w : BitVec 10} {i : Instr} {s t : State} (hi : decodeOutWord w = .ok i)
    (h : exec i s = .next t) : t.wign = s.wign := by
  unfold decodeOutWord at hi
  split_ifs at hi <;> cases hi <;> cases h <;> rfl

/-- Only a selector can be without an operation (R177). -/
theorem decodeHost_ne_noEngineStep (w : HostWord) : decodeHost w ≠ .error .noEngineStep := by
  cases w with
  | pop w =>
    simp only [decodeHost, decodeOutWord]
    split_ifs <;> simp
  | _ => simp [decodeHost]

/-- A host word's turn, by the word's format. -/
theorem runWord_host_wign {w : HostWord} {s t : State} (h : runWord (.host w) s = .next t) :
    t.wign = wignAfter (.word w) s := by
  rcases runWord_next h with ⟨i, hi, he⟩ | ⟨hi, rfl⟩
  · cases w with
    | cmd w =>
      obtain rfl := Except.ok.inj hi
      rw [exec_decodeCommand] at he
      obtain rfl := Host.Outcome.next.inj he
      exact issueCommand_wignAfter w s
    | push w =>
      obtain rfl := Except.ok.inj hi
      rw [wignAfter_of_unguarded (by simp) rfl]
      exact exec_decodeInWord_wign he
    | pop w =>
      rw [wignAfter_of_unguarded (by simp) rfl]
      exact exec_decodeOutWord_wign hi he
    | bus a =>
      obtain rfl := Except.ok.inj hi
      exact exec_decodeBus_wign he
  · exact absurd hi (decodeHost_ne_noEngineStep w)

/-- The turn that is taken decides what becomes of WIGN; with an empty agenda the engine has the turn, and leaves it. -/
theorem step_wign {s t : State} (h : step s = .next t) :
    (s.agenda = [] ∧ t.wign = s.wign) ∨ ∃ u rest, s.agenda = u :: rest ∧ t.wign = wignAfter u s := by
  rcases step_next h with ⟨ha, he⟩ | ⟨w, rest, ha, he⟩ | ⟨rest, ha, he⟩ | ⟨rest, ha, rfl⟩ | ⟨rest, ha, rfl⟩
    | ⟨v, rest, ha, rfl⟩ | ⟨w, rest, ha, -, rfl⟩ | ⟨w, rest, ha, -, he⟩ | ⟨st, rest, ha, rfl⟩ | ⟨rest, ha, rfl⟩
  · exact .inl ⟨ha, (engineTurn_keeps he).wign⟩
  · exact .inr ⟨_, rest, ha, runWord_host_wign (s := { s with agenda := rest }) he⟩
  · exact .inr ⟨_, rest, ha, (engineTurn_keeps he).wign⟩
  · exact .inr ⟨_, rest, ha, rfl⟩
  · exact .inr ⟨_, rest, ha, rfl⟩
  · exact .inr ⟨_, rest, ha, rfl⟩
  · exact .inr ⟨_, rest, ha, rfl⟩
  · exact .inr ⟨_, rest, ha, (engineTurn_keeps he).wign⟩
  · exact .inr ⟨_, rest, ha, rfl⟩
  · exact .inr ⟨_, rest, ha, rfl⟩

/-- `wignAfter` in the four clauses of R30. -/
theorem wignAfter_clauses (u : Turn) (s : State) :
    (isGuardedWrite u = true → s.busy = true → wignAfter u s = true)
      ∧ (u = .reset → wignAfter u s = false)
      ∧ (isCommandTurn u = true → s.busy = false → wignAfter u s = false)
      ∧ ((isGuardedWrite u = false ∨ s.busy = false) → u ≠ .reset →
          (isCommandTurn u = false ∨ s.busy = true) → wignAfter u s = s.wign) := by
  refine ⟨fun hg hb => ?_, fun hr => by simp [wignAfter, hr], fun hc hb => by rw [wignAfter_of_command hc, hb],
    fun hg hr hc => ?_⟩
  · cases hc : isCommandTurn u with
    | true => rw [wignAfter_of_command hc, hb]
    | false =>
      have hr : u ≠ .reset := by
        rintro rfl
        cases hg
      rw [wignAfter_of_guarded hr hc hg, hb, Bool.true_or]
  · cases hg' : isGuardedWrite u with
    | false => exact wignAfter_of_unguarded hr hg' s
    | true =>
      have hb : s.busy = false := hg.resolve_left (by simp [hg'])
      have hc' : isCommandTurn u = false := hc.resolve_right (by simp [hb])
      rw [wignAfter_of_guarded hr hc' hg', hb, Bool.false_or]

end Sys2Proof.Machine

section
open Sys2Proof Sys2Proof.Machine

/-- Settles O48: WIGN after a step is `wignAfter` of the turn it takes, and kept where the engine has the turn. -/
theorem wignChangesOnlyAsStated : Obligations.WignChangesOnlyAsStated := by
  intro s t h
  rcases step_wign h with ⟨hnil, ht⟩ | ⟨u, rest, hcons, ht⟩ <;> rw [ht]
  · exact ⟨fun u rest hcons => absurd (hnil.symm.trans hcons) (by simp), fun _ => rfl⟩
  · refine ⟨fun u' rest' hcons' => ?_, fun hnil => absurd (hnil.symm.trans hcons) (by simp)⟩
    obtain ⟨rfl, -⟩ := List.cons.inj (hcons.symm.trans hcons')
    exact wignAfter_clauses u s

end
end

section
/-! PROOF. The accesses that reach no register: the improper ones (R62) and the unlisted offsets (R63). -/

namespace Sys2Proof.Machine

/-! ### Accesses that are not 32 bits wide and aligned (R62) -/

/-- An access of another width, or at an offset that is not a multiple of 4. -/
theorem proper_eq_false_iff (a : BusAccess) : a.proper = false ↔ a.bytes ≠ 4 ∨ a.off.toNat % 4 ≠ 0 := by
  simp only [BusAccess.proper, Bool.and_eq_false_iff, beq_eq_false_iff_ne]

theorem decode_improper {a : BusAccess} (h : a.proper = false) :
    decode (.host (.bus a)) = .ok (.reservedAccess a) :=
  congrArg Except.ok (Laws.decodeBus_reserved a (by simp [BusAccess.reserved, h]))

theorem exec_reservedAccess_improper {a : BusAccess} (h : a.proper = false) (s : State) :
    exec (.reservedAccess a) s = .next (busRefused a.write s) := by
  have hp : ¬(a.bytes = 4 ∧ a.off.extractLsb' 0 2 = 0#2) := by
    rw [Laws.aligned_iff]
    rintro ⟨hbytes, hoff⟩
    rcases (proper_eq_false_iff a).1 h with hne | hne
    · exact hne hbytes
    · exact hne hoff
  simp only [exec, execReservedAccess, if_neg hp]

/-! ### The offsets R22 does not list, and the read-only ones (R63) -/

/-- A proper read of an offset that is no register's decodes to a reserved access, which answers 0: the counterpart of
`ignoredWrite`. -/
theorem unlistedRead {off : BitVec 12} (ha : off.extractLsb' 0 2 = 0#2) (hr : readableOffset off.toNat = false)
    (v : Word) (s : State) :
    decode (.host (.bus ⟨false, 4, off, v⟩)) = .ok (.reservedAccess ⟨false, 4, off, v⟩)
      ∧ exec (.reservedAccess ⟨false, 4, off, v⟩) s = .next { s with busData := 0, busError := false } := by
  refine ⟨congrArg Except.ok (Laws.decodeBus_reserved _ ?_), ?_⟩
  · simp [BusAccess.reserved, hr]
  · simp [exec, execReservedAccess, ha, busRead]

/-- Between OUTCNT and the ALPHA window, and past the DTAB window, no register is read. -/
theorem readableOffset_eq_false_iff (off : Nat) :
    readableOffset off = false ↔ 0x020 ≤ off ∧ off < 0x100 ∨ 0x600 ≤ off := by
  simp only [readableOffset, Bool.or_eq_false_iff, Bool.and_eq_false_iff, decide_eq_false_iff_not]
  omega

/-- At ID, between CMD and the ALPHA window, and past the ALPHA window, no write has an effect. -/
theorem writableOffset_eq_false {off : Nat} (h : off = 0x000 ∨ 0x010 ≤ off ∧ off < 0x100 ∨ 0x200 ≤ off) :
    writableOffset off = false := by
  simp only [writableOffset, Bool.or_eq_false_iff, Bool.and_eq_false_iff, beq_eq_false_iff_ne,
    decide_eq_false_iff_not]
  omega

end Sys2Proof.Machine

section
open Sys2Proof Sys2Proof.Machine

/-- Settles O44: an improper access is refused, and a refused access writes only the bus answer. -/
theorem improperAccessIsABusError : Obligations.ImproperAccessIsABusError := by
  intro a s h
  have hp := (proper_eq_false_iff a).2 h
  refine ⟨decode_improper hp, fun hw => ?_, fun hr => ?_⟩
  · rw [exec_reservedAccess_improper hp, hw]
    rfl
  · rw [exec_reservedAccess_improper hp, hr]
    rfl

/-- Settles O45: no register is read, or written, at the offsets of these ranges. -/
theorem unlistedOffsetsReadZero : Obligations.UnlistedOffsetsReadZero := by
  intro s off v hoff
  have ha := (Laws.aligned_iff off).2 hoff
  refine ⟨fun hr => unlistedRead ha ((readableOffset_eq_false_iff _).2 hr) v s, fun hw => ?_⟩
  refine ignoredWrite ha (writableOffset_eq_false ?_) v s
  exact hw.imp_left (congrArg BitVec.toNat)

end
end

section
/-! PROOF. What an accepted command does (R101 to R108): BUILD through its duplicate check and its table, START through
its checks. -/

namespace Sys2Proof.Machine

/-! ### Acceptance (R101) -/

/-- While busy a command other than NOP is ignored and sets WIGN (R30). -/
theorem issueCommand_of_busy {w : Word} {s : State} (hw : w ≠ 0) (hb : s.busy = true) :
    issueCommand w s = { s with wign := true } :=
  (if_pos hb).trans (if_neg hw)

theorem issueCommand_of_not_busy {w : Word} {s : State} (hw : w ≠ 0) (hb : s.busy = false) :
    issueCommand w s = commandEffect w (acceptCommand s) :=
  (if_neg (by simp [hb])).trans (if_neg hw)

theorem commandEffect_illegal {w : Word} (h1 : w ≠ 1) (h2 : w ≠ 2) (s : State) :
    commandEffect w s = raiseFault .command .illegalCommand 0 s :=
  (if_neg h1).trans (if_neg h2)

theorem exec_build_of_not_busy {s : State} (hb : s.busy = false) :
    exec .build s = .next (buildEffect (acceptCommand s)) :=
  congrArg Host.Outcome.next (issueCommand_of_not_busy (by decide) hb)

theorem exec_start_of_not_busy {s : State} (hb : s.busy = false) :
    exec .start s = .next (startEffect (acceptCommand s)) :=
  congrArg Host.Outcome.next (issueCommand_of_not_busy (by decide) hb)

/-- A word that is none of the three commands carries its own fields (R83). -/
theorem decodeCommand_of_ne {w : BitVec 32} (h0 : w ≠ 0) (h1 : w ≠ 1) (h2 : w ≠ 2) :
    decodeCommand w = .illegal (w.extractLsb' 0 4) (w.extractLsb' 4 28) :=
  (if_neg h0).trans ((if_neg h1).trans (if_neg h2))

/-! ### ALPHA's first symbols -/

@[simp] theorem symbols_length (alpha : Memory) (r : Nat) : (symbols alpha r).length = r := by
  simp [symbols]

@[simp] theorem symbols_getElem (alpha : Memory) (r i : Nat) (h : i < (symbols alpha r).length) :
    (symbols alpha r)[i] = alpha.read i := by
  simp [symbols]

theorem mem_symbols {alpha : Memory} {r : Nat} {c : Byte} : c ∈ symbols alpha r ↔ ∃ i, i < r ∧ alpha.read i = c := by
  simp [symbols]

theorem symbols_nodup_iff (alpha : Memory) (r : Nat) :
    (symbols alpha r).Nodup ↔ ∀ j i, j < r → i < j → alpha.read i ≠ alpha.read j := by
  simp only [List.Nodup, List.pairwise_iff_getElem, symbols_length, symbols_getElem]
  exact ⟨fun h j i hj hij => h i j (hij.trans hj) hj hij, fun h i j _ hj hij => h j i hj hij⟩

/-- The symbols before index j, the one at j, and the later ones. -/
theorem symbols_split (alpha : Memory) {j r : Nat} (h : j < r) :
    ∃ later, symbols alpha r = symbols alpha j ++ alpha.read j :: later := by
  obtain ⟨m, rfl⟩ := Nat.exists_eq_add_of_lt h
  refine ⟨(List.range m).map (fun i => alpha.read (j + (i + 1))), ?_⟩
  simp [symbols, Nat.add_assoc, List.range_add, List.range_succ_eq_map]

/-! ### The duplicate check (R105) -/

/-- The check finds nothing exactly where every symbol is new. -/
theorem firstDuplicate_eq_none_iff (seen cs : List Byte) (n : Nat) :
    firstDuplicate seen cs n = none ↔ cs.Nodup ∧ ∀ c ∈ cs, c ∉ seen := by
  induction cs generalizing seen n with
  | nil => simp [firstDuplicate]
  | cons c cs ih =>
    by_cases hc : c ∈ seen
    · simp [firstDuplicate, hc]
    · simp only [firstDuplicate, if_neg hc, ih, List.nodup_cons, List.mem_cons, not_or, forall_eq_or_imp]
      grind

/-- Where the first symbols are all new, the check goes on behind them with these symbols seen. -/
theorem firstDuplicate_append {seen cs : List Byte} {n : Nat} (h : firstDuplicate seen cs n = none) (cs' : List Byte) :
    firstDuplicate seen (cs ++ cs') n = firstDuplicate (cs.reverse ++ seen) cs' (n + cs.length) := by
  induction cs generalizing seen n with
  | nil => rfl
  | cons c cs ih =>
    by_cases hc : c ∈ seen
    · simp [firstDuplicate, hc] at h
    · simp only [firstDuplicate, if_neg hc] at h
      simp [firstDuplicate, hc, ih h, Nat.add_comm 1, Nat.add_assoc]

theorem firstDuplicate_symbols_eq_none_iff (alpha : Memory) (r : Nat) :
    firstDuplicate [] (symbols alpha r) 0 = none ↔ ∀ j i, j < r → i < j → alpha.read i ≠ alpha.read j := by
  simp [firstDuplicate_eq_none_iff, symbols_nodup_iff]

/-- ERRPOS of DUPLICATE_SYMBOL: the check stops at the smallest index whose symbol equals an earlier one. -/
theorem firstDuplicate_symbols_eq_some {alpha : Memory} {j r : Nat} (hj : j < r)
    (hdup : ∃ i, i < j ∧ alpha.read i = alpha.read j)
    (hmin : ∀ j' i, j' < j → i < j' → alpha.read i ≠ alpha.read j') :
    firstDuplicate [] (symbols alpha r) 0 = some j := by
  have hnew := (firstDuplicate_symbols_eq_none_iff alpha j).2 hmin
  have hseen : alpha.read j ∈ (symbols alpha j).reverse ++ [] := by simpa using mem_symbols.2 hdup
  obtain ⟨later, hsplit⟩ := symbols_split alpha hj
  rw [hsplit, firstDuplicate_append hnew, firstDuplicate, if_pos hseen, symbols_length, Nat.zero_add]

/-! ### The table (R105) -/

/-- A character that is no symbol keeps its entry. -/
theorem find_buildTable_of_not_symbol {cs : List Byte} {a : Nat} (h : ∀ c ∈ cs, c.toNat ≠ a) (n : Nat) (m : Memory) :
    (buildTable cs n m).find a = m.find a := by
  induction cs generalizing n m with
  | nil => rfl
  | cons c cs ih =>
    obtain ⟨hc, hcs⟩ := List.forall_mem_cons.1 h
    rw [buildTable, ih hcs, Memory.find_insert_other _ _ _ _ hc.symm]

/-- With distinct symbols no later one overwrites an entry: each symbol's is its index. -/
theorem find_buildTable_symbol {cs : List Byte} (h : cs.Nodup) (n : Nat) (m : Memory) {i : Nat} (hi : i < cs.length) :
    (buildTable cs n m).find cs[i].toNat = some (BitVec.ofNat 8 (n + i)) := by
  induction cs generalizing n m i with
  | nil => exact absurd hi (Nat.not_lt_zero i)
  | cons c cs ih =>
    obtain ⟨hc, hcs⟩ := List.nodup_cons.1 h
    cases i with
    | zero =>
      have hlater : ∀ x ∈ cs, x.toNat ≠ c.toNat := fun x hx he => hc (BitVec.eq_of_toNat_eq he ▸ hx)
      exact (find_buildTable_of_not_symbol hlater (n + 1) _).trans (Memory.find_insert_same m c.toNat _)
    | succ i =>
      simpa [buildTable, Nat.add_comm 1, Nat.add_assoc] using ih hcs (n + 1) _ (Nat.lt_of_succ_lt_succ hi)

theorem tableEntry_of_find {m : Memory} {c i : Nat} (h : m.find c = some (BitVec.ofNat 8 i)) (hi : i < 256) :
    tableEntry m c = (i : Int) := by
  simp [tableEntry, h, Nat.mod_eq_of_lt hi]

theorem tableEntry_buildTable_symbol {alpha : Memory} {r : Nat} (hr : r ≤ 256)
    (hd : ∀ j i, j < r → i < j → alpha.read i ≠ alpha.read j) {i : Nat} (hi : i < r) :
    tableEntry (buildTable (symbols alpha r) 0 []) (alpha.read i).toNat = (i : Int) := by
  have hfind := find_buildTable_symbol ((symbols_nodup_iff alpha r).2 hd) 0 [] (i := i) (by simpa using hi)
  rw [symbols_getElem, Nat.zero_add] at hfind
  exact tableEntry_of_find hfind (by omega)

theorem tableEntry_buildTable_of_not_symbol {alpha : Memory} {r c : Nat} (h : ∀ i, i < r → (alpha.read i).toNat ≠ c) :
    tableEntry (buildTable (symbols alpha r) 0 []) c = -1 := by
  have hc : ∀ x ∈ symbols alpha r, x.toNat ≠ c := by
    intro x hx
    obtain ⟨i, hi, rfl⟩ := mem_symbols.1 hx
    exact h i hi
  simp [tableEntry, find_buildTable_of_not_symbol hc]

/-! ### BUILD, outcome by outcome (R104, R105) -/

theorem buildEffect_invalidRadix {s : State} (h : s.config.radix.toNat < 2 ∨ 256 < s.config.radix.toNat) :
    buildEffect s = raiseFault .command .invalidRadix 0 (invalidateTable s) := by
  rcases buildEffect_cases s with ⟨-, he⟩ | ⟨hlo, hhi, -⟩
  · exact he
  · omega

theorem buildEffect_duplicate {s : State} {j : Nat} (hlo : 2 ≤ s.config.radix.toNat) (hhi : s.config.radix.toNat ≤ 256)
    (h : firstDuplicate [] (symbols s.alpha s.config.radix.toNat) 0 = some j) :
    buildEffect s = raiseFault .command .duplicateSymbol j (invalidateTable s) := by
  rcases buildEffect_cases s with ⟨hr, -⟩ | ⟨-, -, ⟨k, hk, he⟩ | ⟨hnone, -⟩⟩
  · omega
  · rwa [Option.some.inj (h.symm.trans hk)]
  · exact absurd (h.symm.trans hnone) (by simp)

theorem buildEffect_distinct {s : State} (hlo : 2 ≤ s.config.radix.toNat) (hhi : s.config.radix.toNat ≤ 256)
    (h : firstDuplicate [] (symbols s.alpha s.config.radix.toNat) 0 = none) :
    buildEffect s =
      { s with
        tabc := buildTable (symbols s.alpha s.config.radix.toNat) 0 [], tradix := s.config.radix
        tableValid := true, stage := .idle } := by
  rcases buildEffect_cases s with ⟨hr, -⟩ | ⟨-, -, ⟨k, hk, -⟩ | ⟨-, he⟩⟩
  · omega
  · exact absurd (h.symm.trans hk) (by simp)
  · exact he

/-! ### START's checks (R107) -/

/-- START's first two checks pass, and the radix it uses is r. -/
structure StartUses (s : State) (r : BitVec 9) : Prop where
  codec : s.config.codec ≠ .reserved
  table : ¬(s.config.codec = .generic ∧ s.tableValid = false)
  radix : startRadix s.config.codec s.tradix = r

/-- R107 codec by codec. -/
theorem startUses_iff (s : State) (r : BitVec 9) :
    StartUses s r ↔
      s.config.codec = .base64 ∧ r = 64 ∨ s.config.codec = .base58 ∧ r = 58
        ∨ s.config.codec = .generic ∧ s.tableValid = true ∧ r = s.tradix := by
  constructor
  · rintro ⟨hc, ht, rfl⟩
    cases h : s.config.codec <;> simp_all [startRadix]
  · rintro (⟨hc, rfl⟩ | ⟨hc, rfl⟩ | ⟨hc, ht, rfl⟩) <;> constructor <;> simp [*, startRadix]

/-- LG direction by direction (R44). -/
theorem groupLength_eq_iff (dir : Dir) (geo : Geometry) (g : Nat) :
    groupLength dir geo = g ↔ dir = .encode ∧ g = geo.nb ∨ dir = .decode ∧ g = geo.nc := by
  cases dir <;> simp [groupLength, eq_comm]

theorem startChecks_reserved {s : State} (h : s.config.codec = .reserved) : startChecks s = .error .badConfig :=
  if_pos h

theorem startChecks_noTable {s : State} (hc : s.config.codec = .generic) (ht : s.tableValid = false) :
    startChecks s = .error .noTable := by
  simp [startChecks, hc, ht]

theorem startChecks_acc {s : State} {r : BitVec 9} (h : StartUses s r) (hgeo : geometry r = none) :
    startChecks s = .ok { s.lat with codec := s.config.codec, dir := s.config.dir, radix := r, path := .acc } := by
  obtain ⟨hc, ht, rfl⟩ := h
  simp only [startChecks, if_neg hc, if_neg ht, hgeo]

theorem startChecks_badWindow {s : State} {r : BitVec 9} (h : StartUses s r) {geo : Geometry}
    (hgeo : geometry r = some geo)
    (hw : s.winGroups.toNat < 2 ∨ s.params.wbufCap < s.winGroups.toNat * groupLength s.config.dir geo) :
    startChecks s = .error .badConfig := by
  obtain ⟨hc, ht, rfl⟩ := h
  simp only [startChecks, if_neg hc, if_neg ht, hgeo, if_pos hw]

theorem startChecks_pack {s : State} {r : BitVec 9} (h : StartUses s r) {geo : Geometry}
    (hgeo : geometry r = some geo) (hlo : 2 ≤ s.winGroups.toNat)
    (hhi : s.winGroups.toNat * groupLength s.config.dir geo ≤ s.params.wbufCap) :
    startChecks s =
      .ok { codec := s.config.codec, dir := s.config.dir, radix := r, path := .pack, k := geo.k, nb := geo.nb
            nc := geo.nc, g := groupLength s.config.dir geo, w := s.winGroups.toNat * groupLength s.config.dir geo } := by
  obtain ⟨hc, ht, rfl⟩ := h
  simp only [startChecks, if_neg hc, if_neg ht, hgeo, if_neg (not_or.2 ⟨hlo.not_gt, hhi.not_gt⟩)]

/-! ### START by the outcome of its checks (R107, R108) -/

/-- Acceptance writes nothing START's checks read. -/
theorem startChecks_acceptCommand (s : State) : startChecks (acceptCommand s) = startChecks s := rfl

theorem exec_start_of_error {s : State} (hb : s.busy = false) {code : ErrCode} (h : startChecks s = .error code) :
    exec .start s = .next (raiseFault .command code 0 (acceptCommand s)) := by
  rw [exec_start_of_not_busy hb, startEffect, startChecks_acceptCommand, h]

theorem exec_start_of_ok {s : State} (hb : s.busy = false) {lat : Latches} (h : startChecks s = .ok lat) :
    exec .start s =
      .next { acceptCommand s with
        lat := lat, d := [], wb := [], wbase := 0, oq := [], eoseen := false, incnt := 0, outcnt := 0
        stage := startStage lat.path } := by
  rw [exec_start_of_not_busy hb, startEffect, startChecks_acceptCommand, h]

/-! ### The active pair (R43) -/

theorem activePair_base64 {s : State} (h : s.lat.codec = .base64) :
    activeAlphabet s = rom64 ∧ activeTable s = tab64 := by
  simp only [activeAlphabet, activeTable, h, and_self]

theorem activePair_base58 {s : State} (h : s.lat.codec = .base58) :
    activeAlphabet s = rom58 ∧ activeTable s = tab58 := by
  simp only [activeAlphabet, activeTable, h, and_self]

theorem activePair_generic {s : State} (h : s.lat.codec = .generic) :
    activeAlphabet s = s.alpha.read ∧ ∀ c, activeTable s c = (s.tabc.find c.toNat).map BitVec.toNat := by
  simp only [activeAlphabet, activeTable, h, implies_true, and_self]

end Sys2Proof.Machine

section
open Sys2Proof Sys2Proof.Machine

/-- Settles O9: the duplicate check stops at the smallest index, or passes and the table has each symbol's entry. -/
theorem buildDerivesTheTable : Obligations.BuildDerivesTheTable := by
  intro s hb hlo hhi
  rw [exec_build_of_not_busy hb]
  refine ⟨fun j hj hdup hmin => ?_, fun hd => ?_⟩
  · rw [buildEffect_duplicate (s := acceptCommand s) hlo hhi (firstDuplicate_symbols_eq_some hj hdup hmin)]
    rfl
  · rw [buildEffect_distinct (s := acceptCommand s) hlo hhi ((firstDuplicate_symbols_eq_none_iff _ _).2 hd)]
    exact ⟨_, rfl, rfl, fun i hi => tableEntry_buildTable_symbol hhi hd hi,
      fun c hc => tableEntry_buildTable_of_not_symbol hc⟩

/-- Settles O6: NOP issues the word 0, which is ignored in every state. -/
theorem nopHasNoEffect : Obligations.NopHasNoEffect :=
  ⟨rfl, fun s => congrArg Host.Outcome.next (issueCommand_nop s)⟩

/-- Settles O7: the decoded instruction issues the word it was read from. -/
theorem illegalCommandFaults : Obligations.IllegalCommandFaults := by
  intro w h0 h1 h2
  have hdec := decodeCommand_of_ne h0 h1 h2
  refine ⟨_, _, congrArg Except.ok hdec, fun s => ?_⟩
  rw [← hdec, exec_decodeCommand]
  refine ⟨fun hb => ?_, fun hb => ?_⟩
  · rw [issueCommand_of_not_busy h0 hb, commandEffect_illegal h1 h2]
    rfl
  · rw [issueCommand_of_busy h0 hb]

/-- Settles O8: the radix check comes before anything is derived. -/
theorem buildChecksTheRadix : Obligations.BuildChecksTheRadix := by
  refine ⟨rfl, fun s hb hr => ?_⟩
  rw [exec_build_of_not_busy hb, buildEffect_invalidRadix (s := acceptCommand s) hr]
  rfl

/-- Settles O10: each check that fails is an error of `startChecks`, and raises. -/
theorem startChecksInOrder : Obligations.StartChecksInOrder := by
  refine ⟨rfl, fun s hb => ⟨fun hc => ?_, fun hc ht => ?_, fun r geo g hr hgeo hg hw => ?_⟩⟩
  · exact exec_start_of_error hb (startChecks_reserved hc)
  · exact exec_start_of_error hb (startChecks_noTable hc ht)
  · obtain rfl := (groupLength_eq_iff _ _ _).2 hg
    exact exec_start_of_error hb (startChecks_badWindow ((startUses_iff s r).2 hr) hgeo hw)

/-- Settles O11: what the checks latch on either path, and the state START enters with it. -/
theorem startLatchesAndEnters : Obligations.StartLatchesAndEnters := by
  refine ⟨fun s => ⟨activePair_base64, activePair_base58, activePair_generic⟩, fun s r hb hr => ?_⟩
  have huses := (startUses_iff s r).2 hr
  refine ⟨fun hgeo => ?_, fun geo g hgeo hg hlo hhi => ?_⟩
  · exact exec_start_of_ok hb (startChecks_acc huses hgeo)
  · obtain rfl := (groupLength_eq_iff _ _ _).2 hg
    exact exec_start_of_ok hb (startChecks_pack huses hgeo hlo hhi)

end
end

section
/-! PROOF. What one ACC step makes of D (R120 to R123): the canonical digits of mul · N + c, or no digits when that
number needs more than DIGIT_CAP of them. An encode is the step with mul = 256 and base LR, a decode the one with
mul = LR and base 256, so each lemma speaks of both. -/

namespace Sys2Proof.Machine

/-! ### Canonical digits as the library's -/

theorem valueLE_eq_ofDigits (base : Nat) (d : List Byte) :
    valueLE base d = Nat.ofDigits base (d.map BitVec.toNat) := by
  induction d with
  | nil => rfl
  | cons x xs ih => simp [valueLE, Nat.ofDigits_cons, ih]

/-- A number's canonical cells are its digits (R128), so they are the only ones. -/
theorem digits_valueLE {base : Nat} (h2 : 2 ≤ base) {d : List Byte} (hd : canonicalDigits base d) :
    Nat.digits base (valueLE base d) = d.map BitVec.toNat := by
  obtain ⟨hlt, hlast⟩ := hd
  rw [valueLE_eq_ofDigits]
  refine Nat.digits_ofDigits base h2 _ (by simpa using hlt) fun hne => ?_
  have hd' : d ≠ [] := by simpa using hne
  rw [List.getLast_map, ne_eq, ← BitVec.toNat_zero (w := 8), BitVec.toNat_inj]
  exact fun hz => hlast ((List.getLast?_eq_some_getLast hd').trans (congrArg some hz))

/-- How many cells a number needs. -/
theorem canonicalDigits_length_le_iff {base : Nat} (h2 : 2 ≤ base) {d : List Byte} (hd : canonicalDigits base d)
    (cap : Nat) : d.length ≤ cap ↔ valueLE base d < base ^ cap := by
  rw [← Nat.digits_length_le_iff h2, digits_valueLE h2 hd, List.length_map]

/-! ### The step's cells -/

/-- R127: a CARRY below mul stays below mul over digits of the base. -/
theorem accCells_carry_lt {mul base : Nat} {d : List Byte} (hd : ∀ x ∈ d, x.toNat < base) {c : Nat} (hc : c < mul) :
    (accCells mul base d c).2 < mul := by
  induction d generalizing c with
  | nil => exact hc
  | cons x xs ih =>
    obtain ⟨hx, hxs⟩ := List.forall_mem_cons.1 hd
    have hsum : c + x.toNat * mul < base * mul := by nlinarith
    exact ih hxs (Nat.div_lt_of_lt_mul hsum)

/-- When no CARRY is left, the most significant cell is the last sum itself, which mul times a digit keeps from 0. -/
theorem accCells_getLast?_ne_zero {mul base : Nat} (hm : 0 < mul) (h0 : 0 < base) (h : base ≤ 256) {d : List Byte}
    (hd : d.getLast? ≠ some 0) {c : Nat} (hc : (accCells mul base d c).2 = 0) :
    (accCells mul base d c).1.getLast? ≠ some 0 := by
  induction d generalizing c with
  | nil => exact hd
  | cons x xs ih =>
    cases xs with
    | nil =>
      have hx : 0 < x.toNat := Nat.pos_of_ne_zero fun hz => hd (by simp [BitVec.eq_of_toNat_eq (y := 0#8) hz])
      have hlt : c + x.toNat * mul < base := ((Nat.div_eq_zero_iff).1 hc).resolve_left h0.ne'
      have hpos : 0 < x.toNat * mul := Nat.mul_pos hx hm
      intro hz
      have hcell : (BitVec.ofNat 8 ((c + x.toNat * mul) % base)).toNat = 0 :=
        congrArg BitVec.toNat (Option.some.inj hz)
      rw [toNat_digit h0 h, Nat.mod_eq_of_lt hlt] at hcell
      omega
    | cons y ys => exact ih (by rwa [List.getLast?_cons_cons] at hd) hc

section
variable {mul base : Nat} (hm : mul ≤ 256) (h2 : 2 ≤ base) (h : base ≤ 256) {d : List Byte}
  (hd : canonicalDigits base d) {c : Nat} (hc : c < mul)
include hm h2 hd hc

/-- R129: the fuel is enough for the CARRY that is left. -/
theorem accCells_carry_lt_fuel : (accCells mul base d c).2 < base ^ accFuel :=
  calc
    _ < mul := accCells_carry_lt hd.1 hc
    _ ≤ 2 ^ accFuel := hm.trans (by decide)
    _ ≤ base ^ accFuel := Nat.pow_le_pow_left h2 _

include h

/-- R128: the step's digits stand for mul times the number, plus what is added. -/
theorem accDigits_value : valueLE base (accDigits mul base d c) = mul * valueLE base d + c := by
  rw [accDigits, valueLE_append, accCells_length, accAppend_value h2 h _ _ (accCells_carry_lt_fuel hm h2 hd hc),
    accCells_value mul (by omega) h, Nat.add_comm]

/-- R128: the step keeps D canonical, whether it appends or not. -/
theorem accDigits_canonical : canonicalDigits base (accDigits mul base d c) := by
  obtain ⟨⟨hdig, hlast⟩, hnil⟩ := accAppend_canonical h2 h accFuel _ (accCells_carry_lt_fuel hm h2 hd hc)
  refine ⟨fun x hx => ?_, ?_⟩
  · exact (List.mem_append.1 hx).elim (accCells_digits mul (by omega) h d c x) (hdig x)
  · unfold accDigits
    cases ha : accAppend base accFuel (accCells mul base d c).2 with
    | nil =>
      rw [List.append_nil]
      exact accCells_getLast?_ne_zero (by omega) (by omega) h hd.2 (hnil ha)
    | cons y ys =>
      rw [List.getLast?_append_cons, ← ha]
      exact hlast

/-! ### R123's check -/

/-- A number of at most DIGIT_CAP digits becomes D. -/
theorem accStep_of_fits {cap : Nat} (hfit : mul * valueLE base d + c < base ^ cap) :
    accStep mul base cap d c = some (accDigits mul base d c) := by
  rw [← accDigits_value hm h2 h hd hc,
    ← canonicalDigits_length_le_iff h2 (accDigits_canonical hm h2 h hd hc)] at hfit
  rcases accStep_cases mul base cap d c with ⟨hs, -⟩ | ⟨-, -, hlt⟩
  · exact hs
  · omega

/-- A number of more digits than that is not stored. -/
theorem accStep_of_overflows {cap : Nat} (hlen : d.length ≤ cap) (hover : base ^ cap ≤ mul * valueLE base d + c) :
    accStep mul base cap d c = none := by
  rw [← accDigits_value hm h2 h hd hc, ← not_lt,
    ← canonicalDigits_length_le_iff h2 (accDigits_canonical hm h2 h hd hc)] at hover
  rcases accStep_cases mul base cap d c with ⟨-, hle⟩ | ⟨hs, -⟩
  · omega
  · exact hs

end

end Sys2Proof.Machine
end

section
/-! PROOF. The engine operations of ACC_RUN as they are selected (R124 to R126): what each writes, by outcome. -/

namespace Sys2Proof.Machine

/-! ### Selection (R88) -/

theorem exec_accEncByte_selected {s : State} (c : Codec) {b : Byte} {rest : List InToken} (hst : s.stage = .accRun)
    (hdir : s.lat.dir = .encode) (hpath : s.lat.path = .acc) (hin : s.inOffer = .byte b :: rest) :
    exec (.accEncByte c) s = .next (accEncByteEffect b s) := by
  simp [exec, execAccEncByte, hst, hdir, hpath, hin]

theorem exec_accDecByte_selected {s : State} (c : Codec) {b : Byte} {rest : List InToken} (hst : s.stage = .accRun)
    (hdir : s.lat.dir = .decode) (hpath : s.lat.path = .acc) (hin : s.inOffer = .byte b :: rest) :
    exec (.accDecByte c) s = .next (accDecByteEffect b s) := by
  simp [exec, execAccDecByte, hst, hdir, hpath, hin]

theorem exec_accEnd_selected {s : State} (d : Dir) (c : Codec) {rest : List InToken} (hst : s.stage = .accRun)
    (hpath : s.lat.path = .acc) (hin : s.inOffer = .eos :: rest) :
    exec (.accEnd d c) s = .next (accEndEffect s) := by
  simp [exec, execAccEnd, hst, hpath, hin]

/-! ### What the selected operation writes -/

theorem takeToken_eq {s : State} {x : InToken} {rest : List InToken} (hin : s.inOffer = x :: rest) :
    takeToken s = { s with inOffer := rest } := by
  rw [takeToken, hin, List.tail_cons]

theorem takeByte_eq {s : State} {x : InToken} {rest : List InToken} (hin : s.inOffer = x :: rest) :
    takeByte s = { s with inOffer := rest, incnt := s.incnt + 1 } := by
  rw [takeByte, takeToken_eq hin]

/-- An ACC fault at the index p (R213, R214), D a free value. -/
theorem raiseAccFault_eq (code : ErrCode) (p : Word) (s : State) :
    raiseAccFault code p.toNat s =
      { s with
        d := (loseDigits s).d, draws := s.draws + 1
        errcode := errCodeBits code, errpos := p, stage := .flushErr } := by
  rw [raiseAccFault, raiseFault, BitVec.ofNat_toNat, BitVec.setWidth_eq]
  rfl

/-- What the fault leaves of a state whose token is taken and counted. -/
theorem raiseAccFault_takeByte {s : State} {x : InToken} {rest : List InToken} (hin : s.inOffer = x :: rest)
    (code : ErrCode) :
    ∃ t : State, raiseAccFault code s.incnt.toNat (takeByte s) = t
      ∧ t = { s with
          inOffer := rest, incnt := s.incnt + 1, d := t.d, draws := t.draws
          errcode := errCodeBits code, errpos := s.incnt, stage := .flushErr } := by
  rw [raiseAccFault_eq, takeByte_eq hin]
  exact ⟨_, rfl, rfl⟩

/-- What a step that fits leaves: the new digits, CARRY a free value (R46). -/
theorem finishAccStep_some_takeByte {s : State} {x : InToken} {rest : List InToken} (hin : s.inOffer = x :: rest)
    (d : List Byte) (p : Nat) :
    ∃ t : State, finishAccStep (some d) p (takeByte s) = t
      ∧ t = { s with inOffer := rest, incnt := s.incnt + 1, d := t.d, carry := t.carry, draws := t.draws }
      ∧ t.d = d := by
  rw [finishAccStep, takeByte_eq hin]
  exact ⟨_, rfl, rfl, rfl⟩

/-- What a step that does not fit leaves: CAPACITY_EXCEEDED at the old INCNT (R123). -/
theorem finishAccStep_none_takeByte {s : State} {x : InToken} {rest : List InToken} (hin : s.inOffer = x :: rest) :
    ∃ t : State, finishAccStep none s.incnt.toNat (takeByte s) = t
      ∧ t = { s with
          inOffer := rest, incnt := s.incnt + 1, d := t.d, carry := t.carry, draws := t.draws
          errcode := 5, errpos := s.incnt, stage := .flushErr } := by
  rw [finishAccStep, raiseAccFault_eq, takeByte_eq hin]
  exact ⟨_, rfl, rfl⟩

theorem accDecByteEffect_none {s : State} {b : Byte} (hv : activeTable s b = none) :
    accDecByteEffect b s = raiseAccFault .invalidCharacter s.incnt.toNat (takeByte s) := by
  simp [accDecByteEffect, hv]

theorem accDecByteEffect_some {s : State} {b : Byte} {v : Nat} (hv : activeTable s b = some v) :
    accDecByteEffect b s =
      finishAccStep (accDecStep s.lat.radix.toNat s.params.digitCap s.d v) s.incnt.toNat (takeByte s) := by
  simp [accDecByteEffect, hv]

/-- ACC_END's writes with the token named (R126). -/
theorem accEndEffect_eq {s : State} {x : InToken} {rest : List InToken} (hin : s.inOffer = x :: rest) :
    accEndEffect s = { s with inOffer := rest, eoseen := true, oq := accOutput s, stage := .emit } := by
  rw [accEndEffect, takeToken_eq hin]

theorem accOutput_encode {s : State} (hdir : s.lat.dir = .encode) :
    accOutput s = s.d.reverse.map (fun x => activeAlphabet s x.toNat) := by
  simp [accOutput, hdir, accEncOutput]

theorem accOutput_decode {s : State} (hdir : s.lat.dir = .decode) : accOutput s = s.d.reverse := by
  simp [accOutput, hdir, accDecOutput]

end Sys2Proof.Machine

section
open Sys2Proof Sys2Proof.Machine

/-- Settles O16: the step with mul = 256 in base LR, by whether 256·N + b has a place in D. -/
theorem accEncodeByteMultipliesAndAdds : Obligations.AccEncodeByteMultipliesAndAdds := by
  intro s c b rest hst hdir hpath hin hlo hhi hd hlen
  have h2 : 2 ≤ s.lat.radix.toNat := by omega
  rw [exec_accEncByte_selected c hst hdir hpath hin, accEncByteEffect, accEncStep]
  refine ⟨fun hfit => ?_, fun hover => ?_⟩
  · rw [accStep_of_fits le_rfl h2 hhi hd b.isLt hfit]
    obtain ⟨t, ht, hframe, hdt⟩ := finishAccStep_some_takeByte hin _ s.incnt.toNat
    refine ⟨t, congrArg _ ht, hframe, ?_, ?_⟩ <;> rw [hdt]
    · exact accDigits_value le_rfl h2 hhi hd b.isLt
    · exact accDigits_canonical le_rfl h2 hhi hd b.isLt
  · rw [accStep_of_overflows le_rfl h2 hhi hd b.isLt hlen hover]
    obtain ⟨t, ht, hframe⟩ := finishAccStep_none_takeByte hin
    exact ⟨t, congrArg _ ht, hframe⟩

/-- Settles O17: the table decides first, then the step with mul = LR in base 256 by whether LR·N + v has a place
in D. -/
theorem accDecodeByteMultipliesAndAdds : Obligations.AccDecodeByteMultipliesAndAdds := by
  intro s c b rest hst hdir hpath hin hlo hhi hd hlen
  rw [exec_accDecByte_selected c hst hdir hpath hin]
  refine ⟨fun hnone => ?_, fun v hv hvlt => ?_⟩
  · rw [accDecByteEffect_none hnone]
    obtain ⟨t, ht, hframe⟩ := raiseAccFault_takeByte hin .invalidCharacter
    exact ⟨t, congrArg _ ht, hframe⟩
  · have h2 : 2 ≤ 256 := by decide
    rw [accDecByteEffect_some hv, accDecStep]
    refine ⟨fun hfit => ?_, fun hover => ?_⟩
    · rw [accStep_of_fits hhi h2 le_rfl hd hvlt hfit]
      obtain ⟨t, ht, hframe, hdt⟩ := finishAccStep_some_takeByte hin _ s.incnt.toNat
      refine ⟨t, congrArg _ ht, hframe, ?_, ?_⟩ <;> rw [hdt]
      · exact accDigits_value hhi h2 le_rfl hd hvlt
      · exact accDigits_canonical hhi h2 le_rfl hd hvlt
    · rw [accStep_of_overflows hhi h2 le_rfl hd hvlt hlen hover]
      obtain ⟨t, ht, hframe⟩ := finishAccStep_none_takeByte hin
      exact ⟨t, congrArg _ ht, hframe⟩

/-- Settles O18: what is queued is `accOutput`, by the latched direction. -/
theorem accEndQueuesTheDigits : Obligations.AccEndQueuesTheDigits := by
  intro s d c rest hst hpath hin
  rw [exec_accEnd_selected d c hst hpath hin, accEndEffect_eq hin]
  exact ⟨fun hdir => by rw [accOutput_encode hdir], fun hdir => by rw [accOutput_decode hdir]⟩

end
end

section
/-! PROOF. What DEC_BODY and DEC_FINAL read (R170, R171): one group after another, each up to its first character
without a digit. -/

namespace Sys2Proof.Machine

/-! ### A decoding of characters -/

/-- r is the result of decoding the first n characters of x, the first one at message index p, to m bytes: the first
character without a digit faults at its index, and where there is none the m bytes are given (R144). -/
structure IsDecoding (table : Byte → Option Nat) (x : List Byte) (p n m : Nat) (r : Except Nat (List Byte)) :
    Prop where
  error : ∀ i, i < n → table (x.getD i 0) = none → (∀ j, j < i → table (x.getD j 0) ≠ none) → r = .error (p + i)
  ok : (∀ j, j < n → table (x.getD j 0) ≠ none) → ∃ out, r = .ok out ∧ out.length = m

/-- Two conversions in order: the first fault, or the bytes of both (R170, R171). -/
def joinDecoded (r r' : Except Nat (List Byte)) : Except Nat (List Byte) :=
  match r with
  | .error p => .error p
  | .ok out =>
    match r' with
    | .error p => .error p
    | .ok rest => .ok (out ++ rest)

@[simp] theorem joinDecoded_error (e : Nat) (r : Except Nat (List Byte)) : joinDecoded (.error e) r = .error e := rfl

@[simp] theorem joinDecoded_ok_error (out : List Byte) (e : Nat) : joinDecoded (.ok out) (.error e) = .error e := rfl

@[simp] theorem joinDecoded_ok_ok (out rest : List Byte) : joinDecoded (.ok out) (.ok rest) = .ok (out ++ rest) := rfl

theorem getD_take_of_lt {x : List Byte} {i n : Nat} (h : i < n) : (x.take n).getD i 0 = x.getD i 0 := by
  simp [List.getD_eq_getElem?_getD, h]

theorem getD_drop (x : List Byte) (a i : Nat) : (x.drop a).getD i 0 = x.getD (a + i) 0 := by
  simp [List.getD_eq_getElem?_getD]

/-- The characters after the first n are not looked at. -/
theorem IsDecoding.of_take {table : Byte → Option Nat} {x : List Byte} {p n m : Nat} {r : Except Nat (List Byte)}
    (h : IsDecoding table (x.take n) p n m r) : IsDecoding table x p n m r where
  error i hi hnone hfirst :=
    h.error i hi (by rwa [getD_take_of_lt hi]) fun j hj => by rw [getD_take_of_lt (hj.trans hi)]; exact hfirst j hj
  ok hall := h.ok fun j hj => by rw [getD_take_of_lt hj]; exact hall j hj

/-- A decoding of a characters, then one of the n after them. -/
theorem IsDecoding.join {table : Byte → Option Nat} {x : List Byte} {p a n m m' : Nat} {r r' : Except Nat (List Byte)}
    (h : IsDecoding table x p a m r) (h' : IsDecoding table (x.drop a) (p + a) n m' r') :
    IsDecoding table x p (a + n) (m + m') (joinDecoded r r') where
  error i hi hnone hfirst := by
    rcases lt_or_ge i a with hia | hai
    · rw [h.error i hia hnone hfirst, joinDecoded_error]
    · obtain ⟨k, rfl⟩ := Nat.exists_eq_add_of_le hai
      obtain ⟨out, hout, -⟩ := h.ok fun j hj => hfirst j (by omega)
      have hr' := h'.error k (by omega) (by rwa [getD_drop]) fun j hj => by
        rw [getD_drop]
        exact hfirst (a + j) (by omega)
      rw [hout, hr', joinDecoded_ok_error, Nat.add_assoc]
  ok hall := by
    obtain ⟨out, hout, hlen⟩ := h.ok fun j hj => hall j (by omega)
    obtain ⟨rest, hrest, hlen'⟩ := h'.ok fun j hj => by
      rw [getD_drop]
      exact hall (a + j) (by omega)
    exact ⟨out ++ rest, by rw [hout, hrest, joinDecoded_ok_ok], by rw [List.length_append, hlen, hlen']⟩

/-! ### Groups -/

/-- PACK_DEC_GROUP decodes its characters to NB bytes (R144). -/
theorem packDecGroup_isDecoding (table : Byte → Option Nat) (k nb : Nat) (c : List Byte) (p : Nat) :
    IsDecoding table c p c.length nb (packDecGroup table k nb c p) := by
  rcases packDecGroup_cases table k nb c p with ⟨i, hi, hnone, hfirst, he⟩ | ⟨hall, hok⟩
  · refine ⟨fun i' _ hnone' hfirst' => ?_, fun hall => absurd hnone (hall i hi)⟩
    rcases lt_trichotomy i i' with hlt | rfl | hgt
    · exact absurd hnone (hfirst' i hlt)
    · exact he
    · exact absurd hnone' (hfirst i' hgt)
  · exact ⟨fun i hi hnone _ => absurd hnone (hall i hi), fun _ => hok⟩

/-- PACK_DEC_GROUP on the first NC of some characters. -/
theorem packDecGroup_take_isDecoding (table : Byte → Option Nat) (k nb : Nat) {nc : Nat} {x : List Byte}
    (hlen : nc ≤ x.length) (p : Nat) : IsDecoding table x p nc nb (packDecGroup table k nb (x.take nc) p) := by
  have h := packDecGroup_isDecoding table k nb (x.take nc) p
  rw [List.length_take_of_le hlen] at h
  exact h.of_take

theorem decGroups_succ (lat : Latches) (table : Byte → Option Nat) (q : Nat) (x : List Byte) (p : Nat) :
    decGroups lat table (q + 1) x p =
      joinDecoded (packDecGroup table lat.k.toNat lat.nb (x.take lat.nc) p)
        (decGroups lat table q (x.drop lat.nc) (p + lat.nc)) := by
  rw [decGroups]
  cases packDecGroup table lat.k.toNat lat.nb (x.take lat.nc) p with
  | error e => rfl
  | ok out => cases decGroups lat table q (x.drop lat.nc) (p + lat.nc) <;> rfl

/-- q groups decode their q·NC characters to q·NB bytes (R170). -/
theorem decGroups_isDecoding (lat : Latches) (table : Byte → Option Nat) {q : Nat} {x : List Byte}
    (hlen : q * lat.nc ≤ x.length) (p : Nat) :
    IsDecoding table x p (q * lat.nc) (q * lat.nb) (decGroups lat table q x p) := by
  induction q generalizing x p with
  | zero => exact ⟨fun i hi => absurd hi (by simp), fun _ => ⟨[], rfl, by simp⟩⟩
  | succ q ih =>
    rw [Nat.succ_mul] at hlen
    rw [decGroups_succ, Nat.succ_mul, Nat.succ_mul, Nat.add_comm _ lat.nc, Nat.add_comm _ lat.nb]
    exact (packDecGroup_take_isDecoding table _ _ (by omega) p).join (ih (by rw [List.length_drop]; omega) _)

/-- DEC_BODY decodes the whole groups of its characters (R170). -/
theorem decBody_isDecoding (lat : Latches) (table : Byte → Option Nat) (x : List Byte) (p : Nat) :
    IsDecoding table x p (x.length / lat.nc * lat.nc) (x.length / lat.nc * lat.nb) (decBody lat table x p) :=
  decGroups_isDecoding lat table (Nat.div_mul_le_self _ _) p

/-! ### The last window -/

/-- DEC_FINAL without a whole group. -/
theorem decFinal_of_no_group {lat : Latches} {x : List Byte} (h : x.length / lat.nc * lat.nc = 0)
    (table : Byte → Option Nat) (p : Nat) : decFinal lat table x p = .ok [] := by
  simp [decFinal, truncLength, h]

theorem decLast_of_padded {lat : Latches} {c : List Byte} (hcodec : lat.codec = .base64) (hpad : padByte ∈ c)
    (table : Byte → Option Nat) (p : Nat) : decLast lat table c p = b64DecPad c p := by
  simp [decLast, hcodec, hpad]

theorem decLast_of_unpadded {lat : Latches} {c : List Byte} (h : lat.codec ≠ .base64 ∨ padByte ∉ c)
    (table : Byte → Option Nat) (p : Nat) :
    decLast lat table c p = packDecGroup table lat.k.toNat lat.nb c p := by
  rw [decLast, if_neg (not_and_or.2 h)]

/-- The last whole group of a message (R171). -/
def lastGroup (nc : Nat) (x : List Byte) : List Byte :=
  (x.take (x.length / nc * nc)).drop (x.length / nc * nc - nc)


/-- DEC_FINAL with a whole group: DEC_BODY of the groups before the last, then the last (R171). -/
theorem decFinal_of_group {lat : Latches} {x : List Byte} (h : x.length / lat.nc * lat.nc ≠ 0)
    (table : Byte → Option Nat) (p : Nat) :
    decFinal lat table x p =
      joinDecoded (decBody lat table (x.take (x.length / lat.nc * lat.nc - lat.nc)) p)
        (decLast lat table (lastGroup lat.nc x) (p + (x.length / lat.nc * lat.nc - lat.nc))) := by
  have hn : truncLength lat.nc x.length ≠ 0 := h
  simp only [decFinal]
  rw [if_neg hn]
  simp only [truncLength, lastGroup]
  cases decBody lat table (x.take (x.length / lat.nc * lat.nc - lat.nc)) p with
  | error e => rfl
  | ok body => cases decLast lat table _ (p + (x.length / lat.nc * lat.nc - lat.nc)) <;> rfl

/-- DEC_FINAL looks at the whole groups only (R172). -/
theorem decFinal_take (lat : Latches) (table : Byte → Option Nat) (x : List Byte) (p : Nat) :
    decFinal lat table x p = decFinal lat table (x.take (x.length / lat.nc * lat.nc)) p := by
  have hlen : (x.take (x.length / lat.nc * lat.nc)).length / lat.nc * lat.nc = x.length / lat.nc * lat.nc := by
    rw [List.length_take_of_le (Nat.div_mul_le_self _ _)]
    rcases Nat.eq_zero_or_pos lat.nc with h0 | hpos
    · simp [h0]
    · rw [Nat.mul_div_cancel _ hpos]
  by_cases h : x.length / lat.nc * lat.nc = 0
  · rw [decFinal_of_no_group h, decFinal_of_no_group (hlen.trans h)]
  · rw [decFinal_of_group h, decFinal_of_group (hlen.trans_ne h), lastGroup, lastGroup, hlen, List.take_take,
      List.take_take, Nat.min_self, Nat.min_eq_left (Nat.sub_le _ _)]

/-- The last whole group as the NC characters after the groups before it. -/
theorem lastGroup_eq {nc : Nat} {x : List Byte} (h : x.length / nc * nc ≠ 0) :
    lastGroup nc x = (x.drop (x.length / nc * nc - nc)).take nc := by
  have hle : nc ≤ x.length / nc * nc := Nat.le_mul_of_pos_left nc (Nat.pos_of_ne_zero (left_ne_zero_of_mul h))
  rw [lastGroup, List.drop_take, Nat.sub_sub_self hle]

/-- A message without a whole group has no last group, so no PAD in it. -/
theorem group_of_mem_lastGroup {nc : Nat} {x : List Byte} {c : Byte} (h : c ∈ lastGroup nc x) :
    x.length / nc * nc ≠ 0 := by
  intro h0
  simp [lastGroup, h0] at h

/-- The groups before the last one of a decoding's last window. -/
theorem decBody_beforeLast_isDecoding {lat : Latches} (hnc : 0 < lat.nc) (table : Byte → Option Nat) (x : List Byte)
    (p : Nat) :
    IsDecoding table x p (x.length / lat.nc * lat.nc - lat.nc) ((x.length / lat.nc - 1) * lat.nb)
      (decBody lat table (x.take (x.length / lat.nc * lat.nc - lat.nc)) p) := by
  have h := decBody_isDecoding lat table (x.take (x.length / lat.nc * lat.nc - lat.nc)) p
  have hlen : (x.take (x.length / lat.nc * lat.nc - lat.nc)).length = (x.length / lat.nc - 1) * lat.nc := by
    rw [List.length_take_of_le ((Nat.sub_le _ _).trans (Nat.div_mul_le_self _ _)), Nat.sub_one_mul]
  rw [hlen, Nat.mul_div_cancel _ hnc, Nat.sub_one_mul] at h
  exact h.of_take

/-- DEC_FINAL decodes the whole groups, but for a last group that BASE64 reads as padded (R171, R194). -/
theorem decFinal_isDecoding {lat : Latches} (hnc : 0 < lat.nc) (table : Byte → Option Nat) {x : List Byte}
    (hlast : lat.codec ≠ .base64 ∨ padByte ∉ lastGroup lat.nc x) (p : Nat) :
    IsDecoding table x p (x.length / lat.nc * lat.nc) (x.length / lat.nc * lat.nb) (decFinal lat table x p) := by
  by_cases h : x.length / lat.nc * lat.nc = 0
  · have hq : x.length / lat.nc = 0 := (Nat.mul_eq_zero.1 h).resolve_right hnc.ne'
    rw [decFinal_of_no_group h, hq]
    exact ⟨fun i hi => absurd hi (by simp), fun _ => ⟨[], rfl, by simp⟩⟩
  · have hq : 1 ≤ x.length / lat.nc := Nat.pos_of_ne_zero (left_ne_zero_of_mul h)
    have hle : lat.nc ≤ x.length / lat.nc * lat.nc := Nat.le_mul_of_pos_left _ hq
    have hdrop : lat.nc ≤ (x.drop (x.length / lat.nc * lat.nc - lat.nc)).length := by
      have := Nat.div_mul_le_self x.length lat.nc
      rw [List.length_drop]
      omega
    have hjoin := (decBody_beforeLast_isDecoding hnc table x p).join
      (packDecGroup_take_isDecoding table lat.k.toNat lat.nb hdrop _)
    rw [← lastGroup_eq h, ← decLast_of_unpadded hlast, ← decFinal_of_group h, Nat.sub_add_cancel hle,
      ← Nat.succ_mul, Nat.succ_eq_add_one, Nat.sub_add_cancel hq] at hjoin
    exact hjoin

/-- Whatever the last group, a character without a digit before it faults (R170, R171). -/
theorem decFinal_error_beforeLast {lat : Latches} (hnc : 0 < lat.nc) {table : Byte → Option Nat} {x : List Byte}
    {p i : Nat} (hi : i < x.length / lat.nc * lat.nc - lat.nc) (hnone : table (x.getD i 0) = none)
    (hfirst : ∀ j, j < i → table (x.getD j 0) ≠ none) : decFinal lat table x p = .error (p + i) := by
  rw [decFinal_of_group (by omega), (decBody_beforeLast_isDecoding hnc table x p).error i hi hnone hfirst,
    joinDecoded_error]

/-- A padded last group of BASE64 decides what DEC_FINAL gives after the groups before it (R171, R192). -/
theorem decFinal_of_padded {lat : Latches} (hnc : 0 < lat.nc) {table : Byte → Option Nat} {x : List Byte}
    (hcodec : lat.codec = .base64) (hpad : padByte ∈ lastGroup lat.nc x)
    (hbody : ∀ j, j < x.length / lat.nc * lat.nc - lat.nc → table (x.getD j 0) ≠ none) (p : Nat) :
    ∃ body : List Byte, body.length = (x.length / lat.nc - 1) * lat.nb
      ∧ decFinal lat table x p =
        joinDecoded (.ok body) (b64DecPad (lastGroup lat.nc x) (p + (x.length / lat.nc * lat.nc - lat.nc))) := by
  obtain ⟨body, hok, hlen⟩ := (decBody_beforeLast_isDecoding hnc table x p).ok hbody
  refine ⟨body, hlen, ?_⟩
  rw [decFinal_of_group (group_of_mem_lastGroup hpad), decLast_of_padded hcodec hpad, hok]

/-! ### The latches -/

/-- A PACK radix's groups have characters (R141). -/
theorem geometry_nc_pos {r : BitVec 9} {geo : Geometry} (h : geometry r = some geo) : 0 < geo.nc := by
  unfold geometry at h
  split_ifs at h <;> cases h <;> decide

theorem PackLatchesFor.nc_pos {lat : Latches} {n : Nat} (h : PackLatchesFor lat n) : 0 < lat.nc := by
  obtain ⟨geo, hgeo, -, -, -, hnc, -⟩ := h
  rw [hnc]
  exact geometry_nc_pos hgeo

end Sys2Proof.Machine
end

section
/-! PROOF. The engine operations of FILL and DRAIN as they are selected (R167, R168, R176): what each writes, by
outcome. -/

namespace Sys2Proof.Machine

/-! ### Selection (R88) -/

theorem exec_fillByte_selected {s : State} (d : Dir) (c : Codec) {b : Byte} {rest : List InToken}
    (hst : s.stage = .fill) (hpath : s.lat.path = .pack) (hin : s.inOffer = .byte b :: rest) :
    exec (.fillByte d c) s = .next (fillByteEffect b s) := by
  simp [exec, execFillByte, hst, hpath, hin]

theorem exec_fillEnd_selected {s : State} (d : Dir) (c : Codec) {rest : List InToken} (hst : s.stage = .fill)
    (hpath : s.lat.path = .pack) (hin : s.inOffer = .eos :: rest) :
    exec (.fillEnd d c) s = .next (fillEndEffect s) := by
  simp [exec, execFillEnd, hst, hpath, hin]

theorem exec_drainByte_selected {s : State} (d : Dir) (p : Path) (c : Codec) {b : Byte} {rest : List InToken}
    (hst : s.stage = .drain) (hin : s.inOffer = .byte b :: rest) :
    exec (.drainByte d p c) s = .next (takeToken s) := by
  simp [exec, execDrainByte, hst, hin]

theorem exec_drainEnd_selected {s : State} (d : Dir) (p : Path) (c : Codec) {rest : List InToken}
    (hst : s.stage = .drain) (hin : s.inOffer = .eos :: rest) :
    exec (.drainEnd d p c) s = .next { takeToken s with eoseen := true, stage := .error } := by
  simp [exec, execDrainEnd, hst, hin]

/-! ### FILL_BYTE by outcome (R167) -/

theorem fillByteEffect_of_not_full {s : State} (hw : s.wb.length + 1 ≠ s.lat.w) (b : Byte) :
    fillByteEffect b s = { takeByte s with wb := s.wb ++ [b] } := by
  simp [fillByteEffect, hw]

theorem fillByteEffect_of_full_encode {s : State} (hw : s.wb.length + 1 = s.lat.w) (hdir : s.lat.dir = .encode)
    (b : Byte) : fillByteEffect b s = fullEncodeWindow (s.wb ++ [b]) (takeByte s) := by
  simp [fillByteEffect, hw, hdir]

theorem fillByteEffect_of_full_decode {s : State} (hw : s.wb.length + 1 = s.lat.w) (hdir : s.lat.dir = .decode)
    (b : Byte) : fillByteEffect b s = fullDecodeWindow (s.wb ++ [b]) (takeByte s) := by
  simp [fillByteEffect, hw, hdir]

theorem fullDecodeWindow_of_ok {s : State} {x out : List Byte}
    (h : decBody s.lat (activeTable s) (x.take (s.lat.w - s.lat.nc)) s.wbase.toNat = .ok out) :
    fullDecodeWindow x s =
      { losePacc s with
        oq := out, wbase := s.wbase + BitVec.ofNat 32 (s.lat.w - s.lat.nc), wb := x.drop (s.lat.w - s.lat.nc)
        stage := .emit } := by
  simp [fullDecodeWindow, h]

theorem fullDecodeWindow_of_error {s : State} {x : List Byte} {p : Nat}
    (h : decBody s.lat (activeTable s) (x.take (s.lat.w - s.lat.nc)) s.wbase.toNat = .error p) :
    fullDecodeWindow x s = raiseWindowFault p s := by
  simp [fullDecodeWindow, h]

/-! ### FILL_END by outcome (R168) -/

theorem finalWindow_encode {s : State} (hdir : s.lat.dir = .encode) :
    finalWindow s = .ok (encFinal s.lat (activeAlphabet s) s.wb) := by
  simp [finalWindow, hdir]

theorem finalWindow_decode {s : State} (hdir : s.lat.dir = .decode) :
    finalWindow s = decFinal s.lat (activeTable s) s.wb s.wbase.toNat := by
  simp [finalWindow, hdir]

/-- What a last window that converts leaves: its bytes queued, PACC a free value (R47). -/
theorem exec_fillEnd_of_ok {s : State} (d : Dir) (c : Codec) {rest : List InToken} (hst : s.stage = .fill)
    (hpath : s.lat.path = .pack) (hin : s.inOffer = .eos :: rest) {out : List Byte} (h : finalWindow s = .ok out) :
    ∃ t : State, exec (.fillEnd d c) s = .next t
      ∧ t = { s with
          inOffer := rest, eoseen := true, oq := out, wb := [], stage := .emit, pacc := t.pacc
          draws := t.draws } := by
  rw [exec_fillEnd_selected d c hst hpath hin, fillEndEffect, h, takeToken_eq hin]
  exact ⟨_, rfl, rfl⟩

/-- What a last window that faults leaves: INVALID_CHARACTER at its index, OQ and WB as they were (R214). -/
theorem exec_fillEnd_of_error {s : State} (d : Dir) (c : Codec) {rest : List InToken} (hst : s.stage = .fill)
    (hpath : s.lat.path = .pack) (hin : s.inOffer = .eos :: rest) {p : Nat} (h : finalWindow s = .error p) :
    ∃ t : State, exec (.fillEnd d c) s = .next t
      ∧ t = { s with
          inOffer := rest, eoseen := true, errcode := 1, errpos := BitVec.ofNat 32 p, stage := .flushErr
          pacc := t.pacc, draws := t.draws } := by
  rw [exec_fillEnd_selected d c hst hpath hin, fillEndEffect, h, takeToken_eq hin]
  exact ⟨_, rfl, rfl⟩

end Sys2Proof.Machine

section
open Sys2Proof Sys2Proof.Machine

/-- Settles O25: DEC_BODY by its groups, then FILL_BYTE by whether the window is full, the direction, and whether the
window's decoding faults. -/
theorem fillByteConvertsFullWindows : Obligations.FillByteConvertsFullWindows := by
  refine ⟨fun lat n table x p _ => ?_, fun s d c b rest hst hpath hin => ?_⟩
  · obtain ⟨herror, hok⟩ := decBody_isDecoding lat table x p
    exact ⟨herror, hok⟩
  · rw [exec_fillByte_selected d c hst hpath hin]
    refine ⟨fun hw => ?_, fun hw hdir => ?_, fun out hw hdir hout => ?_, fun p hw hdir herr => ?_⟩
    · rw [fillByteEffect_of_not_full hw, takeByte_eq hin]
    · rw [fillByteEffect_of_full_encode hw hdir, takeByte_eq hin]
      exact ⟨_, rfl, rfl⟩
    · rw [fillByteEffect_of_full_decode hw hdir, fullDecodeWindow_of_ok (s := takeByte s) hout, takeByte_eq hin]
      exact ⟨_, rfl, rfl⟩
    · rw [fillByteEffect_of_full_decode hw hdir, fullDecodeWindow_of_error (s := takeByte s) herr, takeByte_eq hin]
      exact ⟨_, rfl, rfl⟩

/-- Settles O26: DEC_FINAL by whether its last group is a padded one of BASE64, then FILL_END by the direction and
whether the last window's decoding faults. -/
theorem fillEndConvertsTheLastWindow : Obligations.FillEndConvertsTheLastWindow := by
  refine ⟨fun lat n table x last p N hlat hN hlast => ?_, fun s d c rest hst hpath hin => ?_⟩
  · have hnc := hlat.nc_pos
    subst hN
    obtain rfl : last = lastGroup lat.nc x := hlast
    refine ⟨decFinal_take lat table x p, fun h0 => decFinal_of_no_group h0 table p, fun i hi hnone hfirst hwhere => ?_,
      fun hall hunpadded => (decFinal_isDecoding hnc table hunpadded p).ok hall, fun hcodec hpad hbody => ?_⟩
    · rcases hwhere with hbefore | hunpadded
      · exact decFinal_error_beforeLast hnc hbefore hnone hfirst
      · exact (decFinal_isDecoding hnc table hunpadded p).error i hi hnone hfirst
    · obtain ⟨body, hlen, hfinal⟩ := decFinal_of_padded hnc hcodec hpad hbody p
      refine ⟨fun q hq => ?_, fun tail htail => ⟨body, ?_, hlen⟩⟩
      · rw [hfinal, hq, joinDecoded_ok_error]
      · rw [hfinal, htail, joinDecoded_ok_ok]
  · refine ⟨fun hdir => ?_, fun out hdir hout => ?_, fun p hdir herr => ?_⟩
    · exact exec_fillEnd_of_ok d c hst hpath hin (finalWindow_encode hdir)
    · exact exec_fillEnd_of_ok d c hst hpath hin ((finalWindow_decode hdir).trans hout)
    · exact exec_fillEnd_of_error d c hst hpath hin ((finalWindow_decode hdir).trans herr)

/-- Settles O31: the token is taken, and End ends the message. -/
theorem drainDiscardsTheRest : Obligations.DrainDiscardsTheRest := by
  intro s d p c rest hst
  refine ⟨fun b hin => ?_, fun hin => ?_⟩
  · rw [exec_drainByte_selected d p c hst hin, takeToken_eq hin]
  · rw [exec_drainEnd_selected d p c hst hin, takeToken_eq hin]

end
end

section
/-! PROOF. What a host word that is no command leaves of STATE and of the tokens (R24 to R36, R62, R84, R85), and so
what the resting states do (R177). -/

namespace Sys2Proof.Machine

/-- STATE and the delivered tokens are the same in s and t, and what s offers t still offers first. -/
structure KeepsTokens (s t : State) : Prop where
  stage : t.stage = s.stage
  outTokens : t.outTokens = s.outTokens
  inOffer : s.inOffer <+: t.inOffer

theorem KeepsTokens.refl (s : State) : KeepsTokens s s := ⟨rfl, rfl, List.prefix_rfl⟩

/-- The turn that was taken off the agenda does not matter. -/
theorem KeepsTokens.of_agenda {s t : State} {rest : List Turn} (h : KeepsTokens { s with agenda := rest } t) :
    KeepsTokens s t := ⟨h.stage, h.outTokens, h.inOffer⟩

theorem writeUnlessBusy_keepsTokens {effect : State → State} {s : State} (h : KeepsTokens s (effect s)) :
    KeepsTokens s (busWrote (writeUnlessBusy effect s)) := by
  rcases writeUnlessBusy_cases effect s with ⟨-, he⟩ | ⟨-, he⟩ <;> rw [he]
  · exact ⟨rfl, rfl, List.prefix_rfl⟩
  · exact ⟨h.stage, h.outTokens, h.inOffer⟩

theorem exec_readOrReserved_keepsTokens {i : Instr} {s t : State} (hi : isReadOrReserved i = true)
    (h : exec i s = .next t) : KeepsTokens s t := by
  obtain ⟨v, e, he⟩ := exec_readOrReserved hi s
  obtain rfl := Host.Outcome.next.inj (he.symm.trans h)
  exact ⟨rfl, rfl, List.prefix_rfl⟩

/-- A proper register write other than a command's, by the register its offset names. -/
theorem exec_decodeWrite_keepsTokens {off : BitVec 12} {v : Word} {s t : State}
    (hc : isCommandTurn (.word (.bus ⟨true, 4, off, v⟩)) = false)
    (h : exec (decodeWrite ⟨true, 4, off, v⟩) s = .next t) : KeepsTokens s t := by
  unfold decodeWrite at h
  dsimp only at h
  split_ifs at h with hconfig hwincfg hcmd halpha
  · cases h
    exact writeUnlessBusy_keepsTokens ⟨rfl, rfl, List.prefix_rfl⟩
  · cases h
    exact writeUnlessBusy_keepsTokens ⟨rfl, rfl, List.prefix_rfl⟩
  · obtain rfl : v = 0 := by simpa [isCommandTurn, hcmd] using hc
    cases h
    rw [issueCommand_nop]
    exact ⟨rfl, rfl, List.prefix_rfl⟩
  · cases h
    exact writeUnlessBusy_keepsTokens ⟨rfl, rfl, List.prefix_rfl⟩
  · exact exec_readOrReserved_keepsTokens rfl h

theorem exec_decodeBus_keepsTokens {a : BusAccess} {s t : State} (hc : isCommandTurn (.word (.bus a)) = false)
    (h : exec (decodeBus a) s = .next t) : KeepsTokens s t := by
  obtain ⟨write, bytes, off, v⟩ := a
  unfold decodeBus at h
  split_ifs at h with hp hw
  · obtain ⟨rfl, -⟩ := hp
    obtain rfl := hw
    exact exec_decodeWrite_keepsTokens hc h
  · exact exec_readOrReserved_keepsTokens (decodeRead_isReadOrReserved _) h
  · exact exec_readOrReserved_keepsTokens rfl h

/-- An IN word adds its token after those already offered (R84, R70). -/
theorem exec_decodeInWord_keepsTokens {w : BitVec 9} {s t : State} (h : exec (decodeInWord w) s = .next t) :
    KeepsTokens s t := by
  unfold decodeInWord at h
  split_ifs at h <;> cases h <;> exact ⟨rfl, rfl, List.prefix_append _ _⟩

/-- An OUT word is an acceptance (R85). -/
theorem exec_decodeOutWord_keepsTokens {w : BitVec 10} {i : Instr} {s t : State} (hi : decodeOutWord w = .ok i)
    (h : exec i s = .next t) : KeepsTokens s t := by
  unfold decodeOutWord at hi
  split_ifs at hi <;> cases hi <;> cases h <;> exact ⟨rfl, rfl, List.prefix_rfl⟩

/-- A host word that is no command, by the word's format. -/
theorem runWord_host_keepsTokens {w : HostWord} {s t : State} (hc : isCommandTurn (.word w) = false)
    (h : runWord (.host w) s = .next t) : KeepsTokens s t := by
  rcases runWord_next h with ⟨i, hi, he⟩ | ⟨hi, rfl⟩
  · cases w with
    | cmd w =>
      obtain rfl : w = 0 := by simpa [isCommandTurn] using hc
      obtain rfl := Except.ok.inj hi
      rw [exec_decodeCommand, issueCommand_nop] at he
      obtain rfl := Host.Outcome.next.inj he
      exact .refl s
    | push w =>
      obtain rfl := Except.ok.inj hi
      exact exec_decodeInWord_keepsTokens he
    | pop w => exact exec_decodeOutWord_keepsTokens hi he
    | bus a =>
      obtain rfl := Except.ok.inj hi
      exact exec_decodeBus_keepsTokens hc he
  · exact absurd hi (decodeHost_ne_noEngineStep w)

theorem engineTurn_resting_keepsTokens {s t : State} (hrest : s.stage = .idle ∨ s.stage = .done ∨ s.stage = .error)
    (h : engineTurn s = .next t) : KeepsTokens s t := by
  obtain rfl := Host.Outcome.next.inj ((engineTurn_resting hrest).symm.trans h)
  exact .refl s

/-- R177, R236: in a resting state a turn that is no command and no reset keeps STATE and the tokens, but for a
withdrawal, which takes back the offered ones. -/
theorem step_resting {s t : State} (hrest : s.stage = .idle ∨ s.stage = .done ∨ s.stage = .error)
    (hturn : ∀ u rest, s.agenda = u :: rest → isCommandTurn u = false ∧ u ≠ .reset) (h : step s = .next t) :
    KeepsTokens s t ∨ ∃ rest, s.agenda = .withdraw :: rest ∧ t = { s with agenda := rest, inOffer := [] } := by
  rcases step_next h with ⟨-, he⟩ | ⟨w, rest, ha, he⟩ | ⟨rest, -, he⟩ | ⟨rest, -, rfl⟩ | ⟨rest, ha, rfl⟩
    | ⟨v, rest, -, rfl⟩ | ⟨w, rest, -, -, rfl⟩ | ⟨-, -, -, -, he⟩ | ⟨st, rest, -, rfl⟩ | ⟨rest, ha, -⟩
  · exact .inl (engineTurn_resting_keepsTokens hrest he)
  · exact .inl (runWord_host_keepsTokens (hturn _ rest ha).1 he).of_agenda
  · exact .inl (engineTurn_resting_keepsTokens (s := { s with agenda := rest }) hrest he).of_agenda
  · exact .inl ⟨rfl, rfl, List.prefix_rfl⟩
  · exact .inr ⟨rest, ha, rfl⟩
  · exact .inl ⟨rfl, rfl, List.prefix_rfl⟩
  · exact .inl ⟨rfl, rfl, List.prefix_rfl⟩
  · exact .inl (engineTurn_resting_keepsTokens hrest he)
  · exact .inl ⟨rfl, rfl, List.prefix_rfl⟩
  · exact absurd rfl (hturn _ rest ha).2

end Sys2Proof.Machine

section
open Sys2Proof Sys2Proof.Machine

/-- Settles O50: only the host's withdrawal takes a token back. -/
theorem restingStatesWaitForACommand : Obligations.RestingStatesWaitForACommand := by
  intro s t hrest hturn h
  rcases step_resting hrest hturn h with hkeeps | ⟨rest, ha, rfl⟩
  · exact ⟨hkeeps.stage, hkeeps.outTokens, fun _ => hkeeps.inOffer⟩
  · exact ⟨rfl, rfl, fun hno => absurd ha (hno rest)⟩

end
end

section
/-! PROOF. What B64_DEC_PAD makes of a group that contains PAD (R192, R193): the group is read as its leading
characters of ROM64 and the rest, and the rest decides whether and where it faults. -/

namespace Sys2Proof.Machine

/-! ### Characters of ROM64 -/

theorem tab64_padByte : tab64 padByte = none := by decide

theorem ne_padByte_of_isSome {x : Byte} (h : (tab64 x).isSome) : x ≠ padByte := by
  rintro rfl
  simp [tab64_padByte] at h

theorem digitIn_lt {rom : Nat → Byte} {r : Nat} {x : Byte} {v : Nat} (h : digitIn rom r x = some v) : v < r :=
  List.mem_range.1 (List.mem_of_find?_eq_some h)

theorem tab64_lt {x : Byte} {v : Nat} (h : tab64 x = some v) : v < 64 := digitIn_lt h

/-! ### The checks on one character -/

theorem firstPad_cons_padByte (cs : List Byte) : firstPad (padByte :: cs) = 0 := by
  rw [firstPad, List.findIdx_cons, beq_self_eq_true, cond_true]

theorem firstPad_cons_of_ne {x : Byte} (h : x ≠ padByte) (cs : List Byte) :
    firstPad (x :: cs) = firstPad cs + 1 := by
  simp [firstPad, List.findIdx_cons, beq_false_of_ne h]

theorem padOffends_before {c : List Byte} {i : Nat} (h : i < firstPad c) :
    padOffends c i = (tab64 (c.getD i 0)).isNone := by
  simp [padOffends, h]

theorem padOffends_firstPad (c : List Byte) : padOffends c (firstPad c) = decide (firstPad c < 2) := by
  simp [padOffends]

theorem padOffends_after {c : List Byte} {i : Nat} (h : firstPad c < i) :
    padOffends c i = (c.getD i 0 != padByte) := by
  simp [padOffends, h.not_gt, h.ne']

/-! ### The first offender -/

theorem b64DecPad_of_offender {c : List Byte} {i : Nat} (hi : i < 4) (hoff : padOffends c i = true)
    (hfirst : ∀ j, j < i → padOffends c j = false) (p : Nat) : b64DecPad c p = .error (p + i) := by
  have hfind : (List.range 4).find? (padOffends c) = some i :=
    List.find?_range_eq_some.2 ⟨hoff, List.mem_range.2 hi, fun j hj => by simp [hfirst j hj]⟩
  simp [b64DecPad, hfind]

section
variable {ds : List Byte} (hds : ∀ x ∈ ds, (tab64 x).isSome)
include hds

theorem firstPad_append (cs : List Byte) : firstPad (ds ++ cs) = ds.length + firstPad cs := by
  induction ds with
  | nil => simp
  | cons x xs ih =>
    obtain ⟨hx, hxs⟩ := List.forall_mem_cons.1 hds
    rw [List.cons_append, firstPad_cons_of_ne (ne_padByte_of_isSome hx), ih hxs, List.length_cons]
    omega

theorem firstPad_append_padByte (cs : List Byte) : firstPad (ds ++ padByte :: cs) = ds.length := by
  rw [firstPad_append hds, firstPad_cons_padByte, Nat.add_zero]

theorem padOffends_leading (cs : List Byte) {j : Nat} (hj : j < ds.length) : padOffends (ds ++ cs) j = false := by
  rw [padOffends_before (by rw [firstPad_append hds]; omega), List.getD_append _ _ _ _ hj,
    List.getD_eq_getElem _ _ hj, Option.isNone_eq_false_iff]
  exact hds _ (List.getElem_mem hj)

/-- The first PAD offends when it has fewer than two characters before it. -/
theorem padOffends_padByte (cs : List Byte) :
    padOffends (ds ++ padByte :: cs) ds.length = decide (ds.length < 2) := by
  simpa only [firstPad_append_padByte hds] using padOffends_firstPad (ds ++ padByte :: cs)

/-- A character after the first PAD offends when it is not PAD. -/
theorem padOffends_trailing (cs : List Byte) (j : Nat) :
    padOffends (ds ++ padByte :: cs) (ds.length + (j + 1)) = (cs.getD j 0 != padByte) := by
  rw [padOffends_after (by rw [firstPad_append_padByte hds]; omega),
    List.getD_append_right _ _ _ _ (Nat.le_add_right ..), Nat.add_sub_cancel_left, List.getD_cons_succ]

/-- The first character that is not in ROM64 offends, but for a PAD with two characters before it (R193). -/
theorem b64DecPad_of_no_digit (hlen : ds.length < 4) {x : Byte} (hx : tab64 x = none)
    (hplace : ds.length < 2 ∨ x ≠ padByte) (cs : List Byte) (p : Nat) :
    b64DecPad (ds ++ x :: cs) p = .error (p + ds.length) := by
  refine b64DecPad_of_offender hlen ?_ (fun j hj => padOffends_leading hds _ hj) p
  by_cases hpad : x = padByte
  · subst hpad
    rw [padOffends_padByte hds]
    exact decide_eq_true (hplace.resolve_right (not_not_intro rfl))
  · rw [padOffends_before (by rw [firstPad_append hds, firstPad_cons_of_ne hpad]; omega),
      List.getD_append_right _ _ _ _ le_rfl, Nat.sub_self, List.getD_cons_zero, hx, Option.isNone_none]

/-- A character that is not PAD offends after a PAD that does not (R193). -/
theorem b64DecPad_of_ne_padByte_after (hlo : 2 ≤ ds.length) (hlen : ds.length < 3) {x : Byte} (hx : x ≠ padByte)
    (cs : List Byte) (p : Nat) : b64DecPad (ds ++ padByte :: x :: cs) p = .error (p + (ds.length + 1)) := by
  refine b64DecPad_of_offender (by omega) ?_ (fun j hj => ?_) p
  · rw [padOffends_trailing hds _ 0, List.getD_cons_zero]
    exact bne_iff_ne.2 hx
  · rcases Nat.lt_succ_iff_lt_or_eq.1 hj with hlt | rfl
    · exact padOffends_leading hds _ hlt
    · rw [padOffends_padByte hds]
      exact decide_eq_false hlo.not_gt

/-- Nothing offends in a group of two or three characters of ROM64 and PADs (R193). -/
theorem find?_padOffends_eq_none (hlo : 2 ≤ ds.length) {n : Nat} (hlen : ds.length + (n + 1) = 4) :
    (List.range 4).find? (padOffends (ds ++ padByte :: List.replicate n padByte)) = none := by
  refine List.find?_range_eq_none.2 fun j hj => ?_
  rw [Bool.not_eq_true']
  rcases lt_trichotomy j ds.length with hlt | rfl | hgt
  · exact padOffends_leading hds _ hlt
  · rw [padOffends_padByte hds]
    exact decide_eq_false hlo.not_gt
  · obtain ⟨t, rfl⟩ := Nat.exists_eq_add_of_lt hgt
    rw [Nat.add_assoc, padOffends_trailing hds, List.getD_replicate _ (by omega)]
    exact bne_self_eq_false padByte

end

/-! ### The bytes of a valid group -/

/-- Two digits in PACC as a number. -/
theorem shiftLeft_or_digit {v1 : Nat} (h1 : v1 < 64) (v0 : Nat) : (v0 <<< 6) ||| v1 = 64 * v0 + v1 := by
  rw [← Nat.shiftLeft_add_eq_or_of_lt h1, Nat.shiftLeft_eq, Nat.mul_comm]

/-- Three digits in PACC as a number. -/
theorem shiftLeft_or_shiftLeft_or_digit {v1 v2 : Nat} (h1 : v1 < 64) (h2 : v2 < 64) (v0 : Nat) :
    (v0 <<< 12) ||| (v1 <<< 6) ||| v2 = 4096 * v0 + 64 * v1 + v2 := by
  have hpair : (v0 <<< 12) ||| (v1 <<< 6) = ((v0 <<< 6) ||| v1) <<< 6 := by
    rw [Nat.shiftLeft_or_distrib, ← Nat.shiftLeft_add]
  rw [hpair, shiftLeft_or_digit h2, shiftLeft_or_digit h1]
  omega

/-- `xx==` gives one byte (R192). -/
theorem b64DecPad_two_digits {c0 c1 : Byte} {v0 v1 : Nat} (h0 : tab64 c0 = some v0) (h1 : tab64 c1 = some v1)
    (p : Nat) : b64DecPad [c0, c1, padByte, padByte] p = .ok [BitVec.ofNat 8 ((64 * v0 + v1) / 16)] := by
  have hds : ∀ x ∈ [c0, c1], (tab64 x).isSome := by simp [h0, h1]
  have hnone : (List.range 4).find? (padOffends [c0, c1, padByte, padByte]) = none :=
    find?_padOffends_eq_none hds le_rfl (n := 1) rfl
  have hpad : firstPad [c0, c1, padByte, padByte] = 2 := firstPad_append_padByte hds _
  simp [b64DecPad, hnone, hpad, padDigit, h0, h1, shiftLeft_or_digit (tab64_lt h1), Nat.shiftRight_eq_div_pow]

/-- `xxx=` gives two bytes (R192). -/
theorem b64DecPad_three_digits {c0 c1 c2 : Byte} {v0 v1 v2 : Nat} (h0 : tab64 c0 = some v0)
    (h1 : tab64 c1 = some v1) (h2 : tab64 c2 = some v2) (p : Nat) :
    b64DecPad [c0, c1, c2, padByte] p =
      .ok [BitVec.ofNat 8 ((4096 * v0 + 64 * v1 + v2) / 1024),
        BitVec.ofNat 8 ((4096 * v0 + 64 * v1 + v2) / 4)] := by
  have hds : ∀ x ∈ [c0, c1, c2], (tab64 x).isSome := by simp [h0, h1, h2]
  have hnone : (List.range 4).find? (padOffends [c0, c1, c2, padByte]) = none :=
    find?_padOffends_eq_none hds (by simp) (n := 0) rfl
  have hpad : firstPad [c0, c1, c2, padByte] = 3 := firstPad_append_padByte hds _
  simp [b64DecPad, hnone, hpad, padDigit, h0, h1, h2,
    shiftLeft_or_shiftLeft_or_digit (tab64_lt h1) (tab64_lt h2), Nat.shiftRight_eq_div_pow, Nat.div_div_eq_div_mul]

/-! ### The faults of a group of four, by index -/

section
variable {c0 c1 : Byte}

theorem b64DecPad_error_first (h0 : tab64 c0 = none) (cs : List Byte) (p : Nat) :
    b64DecPad (c0 :: cs) p = .error p :=
  b64DecPad_of_no_digit (ds := []) (by simp) (by decide) h0 (.inl (by decide)) cs p

theorem b64DecPad_error_second (h0 : (tab64 c0).isSome) (h1 : tab64 c1 = none) (cs : List Byte) (p : Nat) :
    b64DecPad (c0 :: c1 :: cs) p = .error (p + 1) :=
  b64DecPad_of_no_digit (ds := [c0]) (by simpa) (by simp) h1 (.inl (by simp)) cs p

variable (h0 : (tab64 c0).isSome) (h1 : (tab64 c1).isSome)
include h0 h1

theorem b64DecPad_error_third {c2 : Byte} (hne : c2 ≠ padByte) (h2 : tab64 c2 = none) (cs : List Byte) (p : Nat) :
    b64DecPad (c0 :: c1 :: c2 :: cs) p = .error (p + 2) :=
  b64DecPad_of_no_digit (ds := [c0, c1]) (by simp [h0, h1]) (by simp) h2 (.inr hne) cs p

theorem b64DecPad_error_fourth {c3 : Byte} (hne : c3 ≠ padByte) (cs : List Byte) (p : Nat) :
    b64DecPad (c0 :: c1 :: padByte :: c3 :: cs) p = .error (p + 3) :=
  b64DecPad_of_ne_padByte_after (ds := [c0, c1]) (by simp [h0, h1]) le_rfl (by simp) hne cs p

end

/-- R193: a group that contains PAD and decodes is `xx==` or `xxx=`. -/
theorem paddedForm_of_ok {c0 c1 c2 c3 : Byte} {p : Nat} {out : List Byte} (hpad : padByte ∈ [c0, c1, c2, c3])
    (hok : b64DecPad [c0, c1, c2, c3] p = .ok out) :
    (tab64 c0).isSome ∧ (tab64 c1).isSome ∧ c3 = padByte ∧ (c2 = padByte ∨ (tab64 c2).isSome) := by
  have hnoerror (e : Nat) : b64DecPad [c0, c1, c2, c3] p ≠ .error e := by simp [hok]
  have h0 : (tab64 c0).isSome := Option.isSome_iff_ne_none.2 fun hn => hnoerror _ (b64DecPad_error_first hn _ p)
  have h1 : (tab64 c1).isSome :=
    Option.isSome_iff_ne_none.2 fun hn => hnoerror _ (b64DecPad_error_second h0 hn _ p)
  by_cases h2 : c2 = padByte
  · subst h2
    have h3 : c3 = padByte := of_not_not fun hne => hnoerror _ (b64DecPad_error_fourth h0 h1 hne _ p)
    exact ⟨h0, h1, h3, .inl rfl⟩
  · have h3 : c3 = padByte := by
      simpa [(ne_padByte_of_isSome h0).symm, (ne_padByte_of_isSome h1).symm, Ne.symm h2, eq_comm] using hpad
    have hdigit : (tab64 c2).isSome :=
      Option.isSome_iff_ne_none.2 fun hn => hnoerror _ (b64DecPad_error_third h0 h1 h2 hn _ p)
    exact ⟨h0, h1, h3, .inr hdigit⟩

/-- R192, R193: `xx==` and `xxx=` decode. -/
theorem b64DecPad_ok_of_paddedForm {c0 c1 c2 : Byte} (h0 : (tab64 c0).isSome) (h1 : (tab64 c1).isSome)
    (h2 : c2 = padByte ∨ (tab64 c2).isSome) (p : Nat) : ∃ out, b64DecPad [c0, c1, c2, padByte] p = .ok out := by
  obtain ⟨v0, h0⟩ := Option.isSome_iff_exists.1 h0
  obtain ⟨v1, h1⟩ := Option.isSome_iff_exists.1 h1
  rcases h2 with rfl | h2
  · exact ⟨_, b64DecPad_two_digits h0 h1 p⟩
  · obtain ⟨v2, h2⟩ := Option.isSome_iff_exists.1 h2
    exact ⟨_, b64DecPad_three_digits h0 h1 h2 p⟩

end Sys2Proof.Machine

section
open Sys2Proof Sys2Proof.Machine

/-- Settles O35: by the first character that breaks the two forms, and by how many digits a valid group has. -/
theorem paddedGroupsHaveTwoForms : Obligations.PaddedGroupsHaveTwoForms := by
  intro c0 c1 c2 c3 p hpad
  refine ⟨⟨fun ⟨_, hok⟩ => paddedForm_of_ok hpad hok, ?_⟩, fun h0 => b64DecPad_error_first h0 _ p,
    fun h0 h1 => b64DecPad_error_second h0 h1 _ p, fun h0 h1 hne h2 => b64DecPad_error_third h0 h1 hne h2 _ p, ?_, ?_⟩
  · rintro ⟨h0, h1, rfl, h2⟩
    exact b64DecPad_ok_of_paddedForm h0 h1 h2 p
  · rintro h0 h1 rfl hne
    exact b64DecPad_error_fourth h0 h1 hne _ p
  · rintro v0 v1 h0 h1 rfl
    refine ⟨?_, fun v2 h2 => b64DecPad_three_digits h0 h1 h2 p⟩
    rintro rfl
    exact b64DecPad_two_digits h0 h1 p

end
end

section
/-! PROOF. The decoder and the encoder (30_encoding.md R80 to R90): the row of every word, and the operation of every
selector. -/

namespace Sys2Proof

/-! ### DSEL's fields (R87) -/

theorem stageOfBits_stageBits (st : Stage) : stageOfBits (stageBits st) = st := by cases st <;> rfl

theorem dirOfBit_dirBit (d : Dir) : dirOfBit (dirBit d) = d := by cases d <;> rfl

theorem pathOfBit_pathBit (p : Path) : pathOfBit (pathBit p) = p := by cases p <;> rfl

theorem codecOfBits_codecBits (c : Codec) : codecOfBits (codecBits c) = c := by cases c <;> rfl

section
variable (st : Stage) (tok : Bool) (d : Dir) (p : Path) (c : Codec)

/-- The bits of DSEL, field by field. -/
theorem dselOf_bits :
    (dselOf st tok d p c).extractLsb' 5 3 = stageBits st ∧ (dselOf st tok d p c).getLsbD 4 = tok
      ∧ (dselOf st tok d p c).getLsbD 3 = dirBit d ∧ (dselOf st tok d p c).getLsbD 2 = pathBit p
      ∧ (dselOf st tok d p c).extractLsb' 0 2 = codecBits c := by
  unfold dselOf
  simp (disch := decide) only [BitVec.extractLsb'_append_eq_of_le, BitVec.extractLsb'_append_eq_of_add_le,
    BitVec.extractLsb'_eq_self, BitVec.getLsbD_append, BitVec.getLsbD_ofBool, Nat.reduceSub, Nat.reduceLT, if_false,
    if_true, decide_true, Bool.true_and, and_self]

@[simp] theorem stageOfBits_dselOf : stageOfBits ((dselOf st tok d p c).extractLsb' 5 3) = st := by
  obtain ⟨hst, -⟩ := dselOf_bits st tok d p c
  rw [hst, stageOfBits_stageBits]

@[simp] theorem dselOf_token : (dselOf st tok d p c)[4] = tok := by
  obtain ⟨-, htok, -⟩ := dselOf_bits st tok d p c
  exact htok

@[simp] theorem dirOfBit_dselOf : dirOfBit (dselOf st tok d p c)[3] = d := by
  obtain ⟨-, -, hd, -⟩ := dselOf_bits st tok d p c
  exact (congrArg dirOfBit hd).trans (dirOfBit_dirBit d)

@[simp] theorem pathOfBit_dselOf : pathOfBit (dselOf st tok d p c)[2] = p := by
  obtain ⟨-, -, -, hp, -⟩ := dselOf_bits st tok d p c
  exact (congrArg pathOfBit hp).trans (pathOfBit_pathBit p)

@[simp] theorem codecOfBits_dselOf : codecOfBits ((dselOf st tok d p c).extractLsb' 0 2) = c := by
  obtain ⟨-, -, -, -, hc⟩ := dselOf_bits st tok d p c
  rw [hc, codecOfBits_codecBits]

end

/-! ### The operation of every selector (R88) -/

section
variable (d : Dir) (p : Path) (c : Codec) (q e : Bool)

theorem selects_accEncByte : decodeSelector ⟨dselOf .accRun false .encode .acc c, q, e⟩ = .ok (.accEncByte c) := by
  simp [decodeSelector]

theorem selects_accDecByte : decodeSelector ⟨dselOf .accRun false .decode .acc c, q, e⟩ = .ok (.accDecByte c) := by
  simp [decodeSelector]

theorem selects_accEnd : decodeSelector ⟨dselOf .accRun true d .acc c, q, e⟩ = .ok (.accEnd d c) := by
  simp [decodeSelector]

theorem selects_fillByte : decodeSelector ⟨dselOf .fill false d .pack c, q, e⟩ = .ok (.fillByte d c) := by
  simp [decodeSelector]

theorem selects_fillEnd : decodeSelector ⟨dselOf .fill true d .pack c, q, e⟩ = .ok (.fillEnd d c) := by
  simp [decodeSelector]

theorem selects_emitByte : decodeSelector ⟨dselOf .emit false d p c, true, e⟩ = .ok (.emitByte d p c) := by
  simp [decodeSelector]

theorem selects_emitEnd : decodeSelector ⟨dselOf .emit false d p c, false, true⟩ = .ok (.emitEnd d p c) := by
  simp [decodeSelector]

theorem selects_emitRefill :
    decodeSelector ⟨dselOf .emit false d p c, false, false⟩ = .ok (.emitRefill d p c) := by
  simp [decodeSelector]

theorem selects_flushErr : decodeSelector ⟨dselOf .flushErr false d p c, q, e⟩ = .ok (.flushErr d p c) := by
  simp [decodeSelector]

theorem selects_drainByte : decodeSelector ⟨dselOf .drain false d p c, q, e⟩ = .ok (.drainByte d p c) := by
  simp [decodeSelector]

theorem selects_drainEnd : decodeSelector ⟨dselOf .drain true d p c, q, e⟩ = .ok (.drainEnd d p c) := by
  simp [decodeSelector]

theorem selects_none {st : Stage} (h : st = .idle ∨ st = .done ∨ st = .error) (tok : Bool) :
    decodeSelector ⟨dselOf st tok d p c, q, e⟩ = .error .noEngineStep := by
  rcases h with rfl | rfl | rfl <;> simp [decodeSelector]

/-- R88, R90: in every state with an operation, each selector R88 does not exclude selects one. -/
theorem selects_some {st : Stage} {tok : Bool} (hrest : ¬(st = .idle ∨ st = .done ∨ st = .error))
    (hacc : st = .accRun → p = .acc) (hfill : st = .fill → p = .pack)
    (htok : tok = true → st = .accRun ∨ st = .fill ∨ st = .drain) :
    ∃ i, decodeSelector ⟨dselOf st tok d p c, q, e⟩ = .ok i := by
  cases st with
  | idle | done | error => simp at hrest
  | accRun =>
    obtain rfl := hacc rfl
    cases tok
    · cases d
      · exact ⟨_, selects_accEncByte c q e⟩
      · exact ⟨_, selects_accDecByte c q e⟩
    · exact ⟨_, selects_accEnd d c q e⟩
  | fill =>
    obtain rfl := hfill rfl
    cases tok
    · exact ⟨_, selects_fillByte d c q e⟩
    · exact ⟨_, selects_fillEnd d c q e⟩
  | emit =>
    obtain rfl : tok = false := by simpa using htok
    cases q
    · cases e
      · exact ⟨_, selects_emitRefill d p c⟩
      · exact ⟨_, selects_emitEnd d p c⟩
    · exact ⟨_, selects_emitByte d p c e⟩
  | flushErr =>
    obtain rfl : tok = false := by simpa using htok
    exact ⟨_, selects_flushErr d p c q e⟩
  | drain =>
    cases tok
    · exact ⟨_, selects_drainByte d p c q e⟩
    · exact ⟨_, selects_drainEnd d p c q e⟩

end

/-! ### Every command word and register access has its row (R83, R62, R63) -/

theorem illegalWordOk_of_ne {w : BitVec 32} (h0 : w ≠ 0) (h1 : w ≠ 1) (h2 : w ≠ 2) :
    illegalWordOk (w.extractLsb' 0 4) (w.extractLsb' 4 28) = true := by
  have hw : w.extractLsb' 4 28 ++ w.extractLsb' 0 4 = w :=
    BitVec.extractLsb'_append_extractLsb'_eq_extractLsb' (by decide) |>.trans BitVec.extractLsb'_eq_self
  simp only [illegalWordOk, Bool.not_eq_true', Bool.and_eq_false_iff, Bool.or_eq_false_iff, beq_eq_false_iff_ne]
  refine or_iff_not_imp_left.2 fun hrsv => ?_
  rw [not_not.1 hrsv] at hw
  refine ⟨⟨?_, ?_⟩, ?_⟩ <;> intro hop <;> rw [hop] at hw
  · exact h0 hw.symm
  · exact h1 hw.symm
  · exact h2 hw.symm

/-- Every readable aligned offset (R22) is matched by a row of the reads. -/
theorem readableOffset_has_row : ∀ off : BitVec 12, off.extractLsb' 0 2 = 0#2 → readableOffset off.toNat = true →
    off = 0x000#12 ∨ off = 0x004#12 ∨ off = 0x008#12 ∨ off = 0x00C#12 ∨ off = 0x010#12 ∨ off = 0x014#12
      ∨ off = 0x018#12 ∨ off = 0x01C#12 ∨ off &&& 0xF03#12 = 0x100#12 ∨ off &&& 0xE03#12 = 0x200#12
      ∨ off &&& 0xE03#12 = 0x400#12 := by
  decide +kernel

/-- Every writable aligned offset is matched by a row of the writes. -/
theorem writableOffset_has_row : ∀ off : BitVec 12, off.extractLsb' 0 2 = 0#2 → writableOffset off.toNat = true →
    off = 0x004#12 ∨ off = 0x008#12 ∨ off = 0x00C#12 ∨ off &&& 0xF03#12 = 0x100#12 := by
  decide +kernel

theorem decodeRead_wellFormed {a : BusAccess} (ha : a.off.extractLsb' 0 2 = 0#2)
    (hr : readableOffset a.off.toNat = true) : (decodeRead a).wellFormed = true := by
  have hrow := readableOffset_has_row a.off ha hr
  simp only [decodeRead, apply_ite Instr.wellFormed]
  simp only [Instr.wellFormed, Bool.if_true_left, Bool.or_eq_true, decide_eq_true_eq, ← or_assoc] at hrow ⊢
  exact .inl hrow

theorem decodeWrite_wellFormed {a : BusAccess} (ha : a.off.extractLsb' 0 2 = 0#2)
    (hw : writableOffset a.off.toNat = true) : (decodeWrite a).wellFormed = true := by
  have hrow := writableOffset_has_row a.off ha hw
  simp only [decodeWrite, apply_ite Instr.wellFormed]
  simp only [Instr.wellFormed, Bool.if_true_left, Bool.or_eq_true, decide_eq_true_eq, ← or_assoc] at hrow ⊢
  exact .inl hrow

/-- An access is a reserved one, or has its row (R62, R63). -/
theorem decodeBus_wellFormed (a : BusAccess) : (decodeBus a).wellFormed = true := by
  cases hres : a.reserved
  · simp only [BusAccess.reserved, BusAccess.proper, Bool.or_eq_false_iff, Bool.not_eq_false', Bool.and_eq_true,
      beq_iff_eq] at hres
    obtain ⟨⟨hbytes, hoff⟩, hlisted⟩ := hres
    have ha := (Laws.aligned_iff a.off).2 hoff
    rw [decodeBus, if_pos ⟨hbytes, ha⟩]
    split_ifs at hlisted ⊢ with hw
    · exact decodeWrite_wellFormed ha hlisted
    · exact decodeRead_wellFormed ha hlisted
  · rw [Laws.decodeBus_reserved a hres]
    exact hres

/-! ### The words of the ports (R84, R85) -/

theorem decodeInWord_of_byte {w : BitVec 9} (h : w.getLsbD 8 = false) :
    decodeInWord w = .inByte (w.extractLsb' 0 8) :=
  if_neg (by rw [h]; decide)

theorem decodeInWord_of_eos {w : BitVec 9} (h : w.getLsbD 8 = true) : decodeInWord w = .inEnd (w.extractLsb' 0 8) :=
  if_pos h

theorem decodeOutWord_never {w : BitVec 10} (hdata : w.extractLsb' 8 2 ≠ 0#2) (hok : w ≠ 0x100#10)
    (herr : w ≠ 0x300#10) : decodeOutWord w = .error (.outWordNeverProduced w) :=
  (if_neg hdata).trans ((if_neg hok).trans (if_neg herr))

end Sys2Proof

section
open Sys2Proof Sys2Proof.Machine

/-- Settles O4, row by row: the family `DecodeEncode` reads each word back. -/
theorem decodeOfEncodeIsTheInstruction : Obligations.DecodeOfEncodeIsTheInstruction := by
  intro i
  cases i with
  | nop => exact Laws.DecodeEncode.nop
  | build => exact Laws.DecodeEncode.build
  | start => exact Laws.DecodeEncode.start
  | illegal op rsv => exact Laws.DecodeEncode.illegal op rsv
  | inByte b => exact Laws.DecodeEncode.inByte b
  | inEnd d => exact Laws.DecodeEncode.inEnd d
  | outByte b => exact Laws.DecodeEncode.outByte b
  | outEndOk => exact Laws.DecodeEncode.outEndOk
  | outEndErr => exact Laws.DecodeEncode.outEndErr
  | accEncByte c => exact Laws.DecodeEncode.accEncByte c
  | accDecByte c => exact Laws.DecodeEncode.accDecByte c
  | accEnd d c => exact Laws.DecodeEncode.accEnd d c
  | fillByte d c => exact Laws.DecodeEncode.fillByte d c
  | fillEnd d c => exact Laws.DecodeEncode.fillEnd d c
  | emitByte d p c => exact Laws.DecodeEncode.emitByte d p c
  | emitEnd d p c => exact Laws.DecodeEncode.emitEnd d p c
  | emitRefill d p c => exact Laws.DecodeEncode.emitRefill d p c
  | flushErr d p c => exact Laws.DecodeEncode.flushErr d p c
  | drainByte d p c => exact Laws.DecodeEncode.drainByte d p c
  | drainEnd d p c => exact Laws.DecodeEncode.drainEnd d p c
  | rdId => exact Laws.DecodeEncode.rdId
  | wrConfig v => exact Laws.DecodeEncode.wrConfig v
  | rdConfig => exact Laws.DecodeEncode.rdConfig
  | wrWincfg v => exact Laws.DecodeEncode.wrWincfg v
  | rdWincfg => exact Laws.DecodeEncode.rdWincfg
  | wrCmd w => exact Laws.DecodeEncode.wrCmd w
  | rdCmd => exact Laws.DecodeEncode.rdCmd
  | rdStatus => exact Laws.DecodeEncode.rdStatus
  | rdErrpos => exact Laws.DecodeEncode.rdErrpos
  | rdIncnt => exact Laws.DecodeEncode.rdIncnt
  | rdOutcnt => exact Laws.DecodeEncode.rdOutcnt
  | wrAlpha j v => exact Laws.DecodeEncode.wrAlpha j v
  | rdAlpha j => exact Laws.DecodeEncode.rdAlpha j
  | rdDtab c => exact Laws.DecodeEncode.rdDtab c
  | rdDtabHi c => exact Laws.DecodeEncode.rdDtabHi c
  | reservedAccess a => exact Laws.DecodeEncode.reservedAccess a

/-- Settles O3: each word is written out, and read by its row. -/
theorem sampleWordsDecode : Obligations.SampleWordsDecode := by
  refine ⟨rfl, rfl, rfl, rfl, rfl, rfl, rfl, rfl⟩

/-- Settles O5, format by format. -/
theorem decodingIsTotal : Obligations.DecodingIsTotal := by
  refine ⟨fun w => ?_, fun w => ⟨w.extractLsb' 0 8, ?_⟩, fun st tok d p c q e hacc hfill htok => ?_,
    fun a => ⟨decodeBus a, rfl, decodeBus_wellFormed a⟩⟩
  · by_cases h0 : w = 0
    · exact .inl (by rw [h0]; rfl)
    by_cases h1 : w = 1
    · exact .inr (.inl (by rw [h1]; rfl))
    by_cases h2 : w = 2
    · exact .inr (.inr (.inl (by rw [h2]; rfl)))
    exact .inr (.inr (.inr
      ⟨_, _, congrArg Except.ok (decodeCommand_of_ne h0 h1 h2), illegalWordOk_of_ne h0 h1 h2⟩))
  · cases h : w.getLsbD 8
    · exact .inl (congrArg Except.ok (decodeInWord_of_byte h))
    · exact .inr (congrArg Except.ok (decodeInWord_of_eos h))
  · by_cases hrest : st = .idle ∨ st = .done ∨ st = .error
    · exact .inl ⟨hrest, selects_none d p c q e hrest tok⟩
    · exact .inr ⟨by simpa using hrest, selects_some d p c q e hrest hacc hfill htok⟩

/-- Settles O12: the radices of nine bits, one by one. -/
theorem geometryIsTheLcm : Obligations.GeometryIsTheLcm := by
  unfold Obligations.GeometryIsTheLcm
  decide +kernel

/-- Settles O14: bit 8 decides the row, and either row offers its token. -/
theorem inWordsAreOffered : Obligations.InWordsAreOffered := fun _ =>
  ⟨fun h => ⟨congrArg Except.ok (decodeInWord_of_byte h), fun _ => rfl⟩,
    fun h => ⟨congrArg Except.ok (decodeInWord_of_eos h), fun _ => rfl⟩⟩

/-- Settles O15: the three forms, and the rejection of any other word. -/
theorem outWordsAreAcceptances : Obligations.OutWordsAreAcceptances :=
  ⟨fun b => ⟨Laws.decodeOutWord_byte b, fun _ => rfl⟩, ⟨rfl, fun _ => rfl⟩, ⟨rfl, fun _ => rfl⟩,
    fun _ hdata hok herr => decodeOutWord_never hdata hok herr⟩
end
end

section
/-! PROOF. What each turn of the engine and of the host runs (R87, R88, R161), and the operations that put a token
(R164, R165, R175) or none (R173). -/

namespace Sys2Proof.Machine

/-! ### A turn without a word -/

theorem step_of_word {s : State} {h : HostWord} {rest : List Turn} (ha : s.agenda = .word h :: rest) :
    step s = runWord (.host h) { s with agenda := rest } := by
  simp [step, takeTurn, ha]

theorem step_of_empty {s : State} (ha : s.agenda = []) : step s = engineTurn s := by
  simp [step, takeTurn, ha]

theorem step_of_engine {s : State} {rest : List Turn} (ha : s.agenda = .engine :: rest) :
    step s = engineTurn { s with agenda := rest } := by
  simp [step, takeTurn, ha]

theorem step_of_wait {s : State} {w : WaitFor} {rest : List Turn} (ha : s.agenda = .wait w :: rest) :
    step s = if waitHolds w s then .next { s with agenda := rest } else engineTurn s := by
  simp [step, takeTurn, ha]

theorem step_of_reset {s : State} {rest : List Turn} (ha : s.agenda = .reset :: rest) :
    step s = .next (resetEvent { s with agenda := rest }) := by
  simp [step, takeTurn, ha]

theorem runWord_of_decode {f : FetchWord} {i : Instr} (h : decode f = .ok i) (s : State) : runWord f s = exec i s := by
  simp [runWord, h]

/-! ### The engine's turn by the state it finds -/

theorem engineTurn_of_selector {s : State} {sel : Selector} (h : selector s = some sel) {i : Instr}
    (hi : decodeSelector sel = .ok i) : engineTurn s = exec i s := by
  simp only [engineTurn, h]
  exact runWord_of_decode (f := .engine sel) hi s

/-- The three steps that take a token read from it whether it is End (R87). -/
theorem selector_of_token {s : State} (hst : s.stage = .accRun ∨ s.stage = .fill ∨ s.stage = .drain) :
    selector s = (offeredEnd s).map fun tok =>
      ⟨dselOf s.stage tok s.lat.dir s.lat.path s.lat.codec, !s.oq.isEmpty, s.eoseen⟩ := by
  have ht : tokenBit s = offeredEnd s := by rcases hst with h | h | h <;> simp [tokenBit, h]
  rw [selector, ht]
  cases offeredEnd s <;> rfl

/-- The other steps take none. -/
theorem selector_of_no_token {s : State} (hst : ¬(s.stage = .accRun ∨ s.stage = .fill ∨ s.stage = .drain)) :
    selector s = some ⟨dselOf s.stage false s.lat.dir s.lat.path s.lat.codec, !s.oq.isEmpty, s.eoseen⟩ := by
  have ht : tokenBit s = some false := by
    unfold tokenBit
    cases h : s.stage <;> simp_all
  rw [selector, ht]

section
variable {s : State} {b : Byte} {rest : List InToken}

theorem selector_of_byte (hst : s.stage = .accRun ∨ s.stage = .fill ∨ s.stage = .drain)
    (hin : s.inOffer = .byte b :: rest) :
    selector s = some ⟨dselOf s.stage false s.lat.dir s.lat.path s.lat.codec, !s.oq.isEmpty, s.eoseen⟩ := by
  rw [selector_of_token hst, offeredEnd, hin]
  rfl

theorem selector_of_eos (hst : s.stage = .accRun ∨ s.stage = .fill ∨ s.stage = .drain)
    (hin : s.inOffer = .eos :: rest) :
    selector s = some ⟨dselOf s.stage true s.lat.dir s.lat.path s.lat.codec, !s.oq.isEmpty, s.eoseen⟩ := by
  rw [selector_of_token hst, offeredEnd, hin]
  rfl

theorem engineTurn_accEncByte (hst : s.stage = .accRun) (hdir : s.lat.dir = .encode) (hpath : s.lat.path = .acc)
    (hin : s.inOffer = .byte b :: rest) : engineTurn s = .next (accEncByteEffect b s) := by
  have hsel := selector_of_byte (.inl hst) hin
  rw [hst, hdir, hpath] at hsel
  rw [engineTurn_of_selector hsel (selects_accEncByte _ _ _), exec_accEncByte_selected _ hst hdir hpath hin]

theorem engineTurn_accDecByte (hst : s.stage = .accRun) (hdir : s.lat.dir = .decode) (hpath : s.lat.path = .acc)
    (hin : s.inOffer = .byte b :: rest) : engineTurn s = .next (accDecByteEffect b s) := by
  have hsel := selector_of_byte (.inl hst) hin
  rw [hst, hdir, hpath] at hsel
  rw [engineTurn_of_selector hsel (selects_accDecByte _ _ _), exec_accDecByte_selected _ hst hdir hpath hin]

theorem engineTurn_accEnd (hst : s.stage = .accRun) (hpath : s.lat.path = .acc) (hin : s.inOffer = .eos :: rest) :
    engineTurn s = .next (accEndEffect s) := by
  have hsel := selector_of_eos (.inl hst) hin
  rw [hst, hpath] at hsel
  rw [engineTurn_of_selector hsel (selects_accEnd _ _ _ _), exec_accEnd_selected _ _ hst hpath hin]

theorem engineTurn_fillByte (hst : s.stage = .fill) (hpath : s.lat.path = .pack)
    (hin : s.inOffer = .byte b :: rest) : engineTurn s = .next (fillByteEffect b s) := by
  have hsel := selector_of_byte (.inr (.inl hst)) hin
  rw [hst, hpath] at hsel
  rw [engineTurn_of_selector hsel (selects_fillByte _ _ _ _), exec_fillByte_selected _ _ hst hpath hin]

theorem engineTurn_fillEnd (hst : s.stage = .fill) (hpath : s.lat.path = .pack) (hin : s.inOffer = .eos :: rest) :
    engineTurn s = .next (fillEndEffect s) := by
  have hsel := selector_of_eos (.inr (.inl hst)) hin
  rw [hst, hpath] at hsel
  rw [engineTurn_of_selector hsel (selects_fillEnd _ _ _ _), exec_fillEnd_selected _ _ hst hpath hin]

theorem engineTurn_drainByte (hst : s.stage = .drain) (hin : s.inOffer = .byte b :: rest) :
    engineTurn s = .next (takeToken s) := by
  have hsel := selector_of_byte (.inr (.inr hst)) hin
  rw [hst] at hsel
  rw [engineTurn_of_selector hsel (selects_drainByte _ _ _ _ _), exec_drainByte_selected _ _ _ hst hin]

theorem engineTurn_drainEnd (hst : s.stage = .drain) (hin : s.inOffer = .eos :: rest) :
    engineTurn s = .next { takeToken s with eoseen := true, stage := .error } := by
  have hsel := selector_of_eos (.inr (.inr hst)) hin
  rw [hst] at hsel
  rw [engineTurn_of_selector hsel (selects_drainEnd _ _ _ _ _), exec_drainEnd_selected _ _ _ hst hin]

end

/-! ### The operations that put a token, as they are selected (R88) -/

section
variable {s : State} (d : Dir) (p : Path) (c : Codec) {e : Option OutToken} {rest : List (Option OutToken)}

theorem putToken_of_accepts (hacc : s.outAccept = e :: rest) (x : OutToken) :
    putToken x s = some { s with
      outAccept := rest, outTokens := s.outTokens ++ [x], assertFailed := s.assertFailed || breaks e x } :=
  putToken_some.2 ⟨e, rest, hacc, rfl⟩

theorem exec_emitByte_selected (hst : s.stage = .emit) {b : Byte} {out : List Byte} (hoq : s.oq = b :: out)
    (hacc : s.outAccept = e :: rest) :
    exec (.emitByte d p c) s =
      .next { s with
        outTokens := s.outTokens ++ [.byte b], oq := out, outcnt := s.outcnt + 1, outAccept := rest
        assertFailed := s.assertFailed || breaks e (.byte b) } := by
  simp [exec, execEmitByte, hst, hoq, putToken_of_accepts hacc]

theorem exec_emitEnd_selected (hst : s.stage = .emit) (hoq : s.oq = []) (heos : s.eoseen = true)
    (hacc : s.outAccept = e :: rest) :
    exec (.emitEnd d p c) s =
      .next { s with
        outTokens := s.outTokens ++ [.endOk], stage := .done, outAccept := rest
        assertFailed := s.assertFailed || breaks e .endOk } := by
  simp [exec, execEmitEnd, hst, hoq, heos, putToken_of_accepts hacc]

theorem exec_emitRefill_selected (hst : s.stage = .emit) (hoq : s.oq = []) (heos : s.eoseen = false) :
    exec (.emitRefill d p c) s = .next { s with stage := .fill } := by
  simp [exec, execEmitRefill, hst, hoq, heos]

theorem exec_flushErr_selected (hst : s.stage = .flushErr) (hacc : s.outAccept = e :: rest) :
    exec (.flushErr d p c) s =
      .next { s with
        outTokens := s.outTokens ++ [.endErr], stage := if s.eoseen = true then .error else .drain
        outAccept := rest, assertFailed := s.assertFailed || breaks e .endErr } := by
  simp [exec, execFlushErr, hst, putToken_of_accepts hacc, afterFlush]

end

/-- In EMIT the three operations are told apart by OQ and EOSEEN (R88). -/
theorem selector_emit {s : State} (hst : s.stage = .emit) :
    selector s = some ⟨dselOf .emit false s.lat.dir s.lat.path s.lat.codec, !s.oq.isEmpty, s.eoseen⟩ := by
  rw [selector_of_no_token (by simp [hst]), hst]

theorem engineTurn_emitByte {s : State} (hst : s.stage = .emit) {b : Byte} {out : List Byte} (hoq : s.oq = b :: out) :
    engineTurn s = exec (.emitByte s.lat.dir s.lat.path s.lat.codec) s := by
  have hsel := selector_emit hst
  rw [hoq] at hsel
  exact engineTurn_of_selector hsel (selects_emitByte _ _ _ _)

theorem engineTurn_emitEnd {s : State} (hst : s.stage = .emit) (hoq : s.oq = []) (heos : s.eoseen = true) :
    engineTurn s = exec (.emitEnd s.lat.dir s.lat.path s.lat.codec) s := by
  have hsel := selector_emit hst
  rw [hoq, heos] at hsel
  exact engineTurn_of_selector hsel (selects_emitEnd _ _ _)

theorem engineTurn_emitRefill {s : State} (hst : s.stage = .emit) (hoq : s.oq = []) (heos : s.eoseen = false) :
    engineTurn s = .next { s with stage := .fill } := by
  have hsel := selector_emit hst
  rw [hoq, heos] at hsel
  rw [engineTurn_of_selector hsel (selects_emitRefill _ _ _), exec_emitRefill_selected _ _ _ hst hoq heos]

theorem engineTurn_flushErr {s : State} (hst : s.stage = .flushErr) :
    engineTurn s = exec (.flushErr s.lat.dir s.lat.path s.lat.codec) s := by
  have hsel := selector_of_no_token (s := s) (by simp [hst])
  rw [hst] at hsel
  exact engineTurn_of_selector hsel (selects_flushErr _ _ _ _ _)

/-! ### Everything the engine's turn can do -/

/-- The engine waits or rests, or runs the operation its state selects, with what that writes (R88, R161). -/
inductive EngineStep (s : State) : State → Prop where
  | nothing : EngineStep s s
  | accEncByte {b : Byte} {rest : List InToken} (hst : s.stage = .accRun) (hdir : s.lat.dir = .encode)
      (hpath : s.lat.path = .acc) (hin : s.inOffer = .byte b :: rest) : EngineStep s (accEncByteEffect b s)
  | accDecByte {b : Byte} {rest : List InToken} (hst : s.stage = .accRun) (hdir : s.lat.dir = .decode)
      (hpath : s.lat.path = .acc) (hin : s.inOffer = .byte b :: rest) : EngineStep s (accDecByteEffect b s)
  | accEnd {rest : List InToken} (hst : s.stage = .accRun) (hpath : s.lat.path = .acc)
      (hin : s.inOffer = .eos :: rest) : EngineStep s (accEndEffect s)
  | fillByte {b : Byte} {rest : List InToken} (hst : s.stage = .fill) (hpath : s.lat.path = .pack)
      (hin : s.inOffer = .byte b :: rest) : EngineStep s (fillByteEffect b s)
  | fillEnd {rest : List InToken} (hst : s.stage = .fill) (hpath : s.lat.path = .pack)
      (hin : s.inOffer = .eos :: rest) : EngineStep s (fillEndEffect s)
  | emitByte {b : Byte} {out : List Byte} {u : State} (hst : s.stage = .emit) (hoq : s.oq = b :: out)
      (hput : putToken (.byte b) s = some u) : EngineStep s { u with oq := out, outcnt := s.outcnt + 1 }
  | emitEnd {u : State} (hst : s.stage = .emit) (hoq : s.oq = []) (heos : s.eoseen = true)
      (hput : putToken .endOk s = some u) : EngineStep s { u with stage := .done }
  | emitRefill (hst : s.stage = .emit) (hoq : s.oq = []) (heos : s.eoseen = false) :
      EngineStep s { s with stage := .fill }
  | flushErr {u : State} (hst : s.stage = .flushErr) (hput : putToken .endErr s = some u) :
      EngineStep s { u with stage := afterFlush s.eoseen }
  | drainByte {b : Byte} {rest : List InToken} (hst : s.stage = .drain) (hin : s.inOffer = .byte b :: rest) :
      EngineStep s (takeToken s)
  | drainEnd {rest : List InToken} (hst : s.stage = .drain) (hin : s.inOffer = .eos :: rest) :
      EngineStep s { takeToken s with eoseen := true, stage := .error }

theorem exec_engineOperation_engineStep {i : Instr} {s t : State} (hi : isEngineOperation i = true)
    (h : exec i s = .next t) : EngineStep s t := by
  cases i with
  | accEncByte c =>
    simp only [exec, execAccEncByte] at h
    split at h <;> cases h
    · exact .accEncByte ‹_› ‹_› ‹_› ‹_›
    · exact .nothing
  | accDecByte c =>
    simp only [exec, execAccDecByte] at h
    split at h <;> cases h
    · exact .accDecByte ‹_› ‹_› ‹_› ‹_›
    · exact .nothing
  | accEnd d c =>
    simp only [exec, execAccEnd] at h
    split at h <;> cases h
    · exact .accEnd ‹_› ‹_› ‹_›
    · exact .nothing
  | fillByte d c =>
    simp only [exec, execFillByte] at h
    split at h <;> cases h
    · exact .fillByte ‹_› ‹_› ‹_›
    · exact .nothing
  | fillEnd d c =>
    simp only [exec, execFillEnd] at h
    split at h <;> cases h
    · exact .fillEnd ‹_› ‹_› ‹_›
    · exact .nothing
  | emitByte d p c =>
    simp only [exec, execEmitByte] at h
    repeat' split at h
    all_goals cases h
    · exact .emitByte ‹_› ‹_› ‹_›
    · exact .nothing
    · exact .nothing
  | emitEnd d p c =>
    simp only [exec, execEmitEnd] at h
    repeat' split at h
    all_goals cases h
    · exact .emitEnd ‹_› ‹_› ‹_› ‹_›
    · exact .nothing
    · exact .nothing
  | emitRefill d p c =>
    simp only [exec, execEmitRefill] at h
    split at h <;> cases h
    · exact .emitRefill ‹_› ‹_› ‹_›
    · exact .nothing
  | flushErr d p c =>
    simp only [exec, execFlushErr] at h
    repeat' split at h
    all_goals cases h
    · exact .flushErr ‹_› ‹_›
    · exact .nothing
    · exact .nothing
  | drainByte d p c =>
    simp only [exec, execDrainByte] at h
    split at h <;> cases h
    · exact .drainByte ‹_› ‹_›
    · exact .nothing
  | drainEnd d p c =>
    simp only [exec, execDrainEnd] at h
    split at h <;> cases h
    · exact .drainEnd ‹_› ‹_›
    · exact .nothing
  | _ => cases hi

theorem engineTurn_engineStep {s t : State} (h : engineTurn s = .next t) : EngineStep s t := by
  rcases engineTurn_next h with ⟨sel, i, -, hi, he⟩ | rfl
  · exact exec_engineOperation_engineStep (isEngineOperation_of_decodeSelector hi) he
  · exact .nothing

end Sys2Proof.Machine

section
open Sys2Proof Sys2Proof.Machine

/-- Settles O1: the turn is taken off, and its word decoded and run. -/
theorem stepRunsTheDecodedHostWord : Obligations.StepRunsTheDecodedHostWord := by
  intro s h rest i ha hi
  rw [step_of_word ha, runWord_of_decode hi]

/-- Settles O2: in all three cases the step is the engine's turn on `t`, whose selector is that of `s`. -/
theorem stepRunsTheSelectedEngineOperation : Obligations.StepRunsTheSelectedEngineOperation := by
  refine ⟨fun s t h => ?_, fun s w rest ha hw => by rw [step_of_wait ha, if_pos hw]⟩
  have hstep : step s = engineTurn t ∧ selector t = selector s ∧ t.stage = s.stage ∧ t.inOffer = s.inOffer := by
    rcases h with ⟨ha, rfl⟩ | ⟨rest, ha, rfl⟩ | ⟨w, rest, ha, hw, rfl⟩
    · exact ⟨step_of_empty ha, rfl, rfl, rfl⟩
    · exact ⟨step_of_engine ha, rfl, rfl, rfl⟩
    · exact ⟨by rw [step_of_wait ha, hw]; rfl, rfl, rfl, rfl⟩
  obtain ⟨hturn, hsel, hst, hin⟩ := hstep
  rw [hturn, ← hsel, ← hst, ← hin]
  exact ⟨fun sel i h hi => engineTurn_of_selector h hi, engineTurn_waiting, engineTurn_resting⟩

/-- Settles O27. -/
theorem emitBytePutsTheFirst : Obligations.EmitBytePutsTheFirst :=
  fun _ d p c _ _ _ _ hst hoq hacc => exec_emitByte_selected d p c hst hoq hacc

/-- Settles O28: STATUS's bits 1 and 0 are DONE and BUSY of the new STATE. -/
theorem emitEndPutsEndOk : Obligations.EmitEndPutsEndOk := by
  intro s d p c e rest hst hoq heos hacc
  refine ⟨_, exec_emitEnd_selected d p c hst hoq heos hacc, rfl, ?_⟩
  obtain ⟨hbusy, hdone, -⟩ := statusWord_fields { s with
    outTokens := s.outTokens ++ [.endOk], stage := .done, outAccept := rest
    assertFailed := s.assertFailed || breaks e .endOk }
  exact ⟨hdone, hbusy⟩

/-- Settles O29. -/
theorem emitRefillReturnsToFill : Obligations.EmitRefillReturnsToFill :=
  fun _ d p c hst hoq heos => exec_emitRefill_selected d p c hst hoq heos

/-- Settles O30. -/
theorem flushErrPutsEndErr : Obligations.FlushErrPutsEndErr :=
  fun _ d p c _ _ hst hacc => exec_flushErr_selected d p c hst hacc
end
end

section
/-! PROOF. Register writes while busy (R30, R235), the registers that only read, the fixed tables (R39 to R42), reset
(R54, R230), and the engine operations that are not selected (R88, R161). -/

namespace Sys2Proof.Machine

/-! ### Register words -/

/-- WINCFG's fields as read (R25). -/
theorem wincfgWord_fields (n : BitVec 16) :
    (wincfgWord n).extractLsb' 0 16 = n ∧ (wincfgWord n).extractLsb' 16 16 = 0#16 := by
  unfold wincfgWord
  simp (disch := decide) only [BitVec.extractLsb'_append_eq_of_le, BitVec.extractLsb'_append_eq_of_add_le,
    BitVec.extractLsb'_eq_self, Nat.reduceSub, and_self]

/-- A DTAB word with a digit is the digit (R37). -/
theorem dtabWord_of_some {m : Memory} {c : Nat} {v : Byte} (h : m.find c = some v) :
    dtabWord m c = BitVec.ofNat 32 v.toNat := by
  rw [dtabWord, tableEntry, h]
  exact BitVec.ofInt_natCast 32 v.toNat

/-- A DTAB word without one is sext_32(-1). -/
theorem dtabWord_of_none {m : Memory} {c : Nat} (h : m.find c = none) : dtabWord m c = 0xFFFFFFFF#32 := by
  rw [dtabWord, tableEntry, h]
  rfl

/-! ### The fixed tables -/

theorem digitIn_eq_none {rom : Nat → Byte} {r : Nat} {c : Byte} (h : ∀ i, i < r → rom i ≠ c) :
    digitIn rom r c = none := by
  simpa [digitIn] using h

/-- ROM64 and ROM58 written out (R39, R41). -/
theorem rom64_chars : (List.range 64).map (fun i => Char.ofNat (rom64 i).toNat) =
    "ABCDEFGHIJKLMNOPQRSTUVWXYZabcdefghijklmnopqrstuvwxyz0123456789+/".toList := rfl

theorem rom58_chars : (List.range 58).map (fun i => Char.ofNat (rom58 i).toNat) =
    "123456789ABCDEFGHJKLMNPQRSTUVWXYZabcdefghijkmnopqrstuvwxyz".toList := rfl

/-- TAB64 inverts ROM64 (R40). -/
theorem tab64_rom64 {i : Nat} (h : i < 64) : tab64 (rom64 i) = some i := by
  have hfin : ∀ j : Fin 64, tab64 (rom64 j) = some j.val := by decide +kernel
  exact hfin ⟨i, h⟩

/-- TAB58 inverts ROM58 (R42). -/
theorem tab58_rom58 {i : Nat} (h : i < 58) : tab58 (rom58 i) = some i := by
  have hfin : ∀ j : Fin 58, tab58 (rom58 j) = some j.val := by decide +kernel
  exact hfin ⟨i, h⟩

/-! ### Reset -/

theorem resetEvent_alpha (s : State) : (resetEvent s).alpha = drawAlpha s.draws := by rw [resetEvent]

theorem resetEvent_tabc (s : State) : (resetEvent s).tabc = drawTable s.draws := by rw [resetEvent]

theorem resetEvent_memoryInv (s : State) : MemoryInv (resetEvent s) := by
  rw [MemoryInv, resetEvent_alpha, resetEvent_tabc]
  exact ⟨drawAlpha_wf _, drawTable_wf _⟩

/-- STATUS reads 0 with STATE = IDLE and its stored fields 0 (R27). -/
theorem statusWord_eq_zero {s : State} (hst : s.stage = .idle) (htv : s.tableValid = false) (hw : s.wign = false)
    (he : s.errcode = 0) : statusWord s = 0 := by
  rw [statusWord, hst, htv, hw, he]
  rfl

end Sys2Proof.Machine

section
open Sys2Proof Sys2Proof.Machine

/-- Settles O13: each write is guarded, and a busy block ignores every command but NOP. -/
theorem writesWhileBusyAreLost : Obligations.WritesWhileBusyAreLost := by
  intro s hb
  refine ⟨fun v => ?_, fun v => ?_, fun j v => ?_, fun w hw => ?_, ?_, ?_, ?_⟩
  · rw [exec, execWrConfig, writeUnlessBusy_of_busy _ hb]
    rfl
  · rw [exec, execWrWincfg, writeUnlessBusy_of_busy _ hb]
    rfl
  · rw [exec, execWrAlpha, writeUnlessBusy_of_busy _ hb]
    rfl
  · rw [exec, execWrCmd, issueCommand_of_busy hw hb]
    rfl
  · rw [exec, execWrCmd, issueCommand_nop]
    rfl
  · exact congrArg Host.Outcome.next (issueCommand_of_busy (by decide) hb)
  · exact congrArg Host.Outcome.next (issueCommand_of_busy (by decide) hb)

/-- Settles O38: an accepted write stores the field, and a read answers its word. -/
theorem wincfgStoresItsField : Obligations.WincfgStoresItsField := by
  intro s
  refine ⟨fun v hb => ?_, wincfgWord s.winGroups, rfl, wincfgWord_fields s.winGroups⟩
  rw [exec, execWrWincfg, writeUnlessBusy_of_not_busy _ hb]
  rfl

/-- Settles O41: the three reads answer their registers. -/
theorem countersReadAsTheyAre : Obligations.CountersReadAsTheyAre := fun _ => ⟨rfl, rfl, rfl⟩

/-- Settles O43: both halves of the window answer the word of their entry. -/
theorem dtabReadsItsEntry : Obligations.DtabReadsItsEntry := by
  intro s c
  refine ⟨fun v h => ?_, fun h => ?_, fun v h => ?_, fun h => ?_⟩
  · rw [exec, execRdDtab, dtabWord_of_some h]
    rfl
  · rw [exec, execRdDtab, dtabWord_of_none h]
    rfl
  · rw [exec, execRdDtabHi, dtabWord_of_some h]
    rfl
  · rw [exec, execRdDtabHi, dtabWord_of_none h]
    rfl

/-- Settles O33: the strings character by character, and the tables by the search that finds the index. -/
theorem fixedTablesAreTheAlphabets : Obligations.FixedTablesAreTheAlphabets :=
  ⟨rom64_chars, rom58_chars, fun _ => tab64_rom64, fun _ => digitIn_eq_none, fun _ => tab58_rom58,
    fun _ => digitIn_eq_none⟩

/-- Settles O46: the fields of the reset state. -/
theorem resetLeavesTheStatedValues : Obligations.ResetLeavesTheStatedValues := by
  refine ⟨rfl, rfl, rfl, rfl, rfl, rfl, by decide, rfl, rfl, rfl, rfl, rfl, rfl, rfl, rfl⟩

/-- Settles O47: the turn is the reset event. -/
theorem resetEventClearsTheBlock : Obligations.ResetEventClearsTheBlock := by
  intro s rest ha
  refine ⟨resetEvent { s with agenda := rest }, step_of_reset ha, ?_, ?_, resetEvent_memoryInv _⟩
  · simp only [resetEvent, State.reset]
  · rw [resetEvent]
    exact statusWord_eq_zero rfl rfl rfl rfl

/-- Settles O32: an operation has its effect only in the case of its match that its row selects. -/
theorem waitingOperationsChangeNothing : Obligations.WaitingOperationsChangeNothing := by
  intro s d p c
  refine ⟨fun h => ?_, fun h => ?_, fun h => ?_, fun h => ?_, fun h => ?_, fun h => ?_, fun h => ?_, fun h => ?_,
    fun h => ?_, fun h => ?_, fun h => ?_⟩
  · simp only [exec, execAccEncByte]
    split <;> simp_all
  · simp only [exec, execAccDecByte]
    split <;> simp_all
  · simp only [exec, execAccEnd]
    split <;> simp_all
  · simp only [exec, execFillByte]
    split <;> simp_all
  · simp only [exec, execFillEnd]
    split <;> simp_all
  · simp only [exec, execEmitByte]
    split <;> simp_all [putToken]
  · simp only [exec, execEmitEnd]
    split <;> simp_all [putToken]
  · simp only [exec, execEmitRefill]
    split <;> simp_all
  · simp only [exec, execFlushErr]
    split <;> simp_all [putToken]
  · simp only [exec, execDrainByte]
    split <;> simp_all
  · simp only [exec, execDrainEnd]
    split <;> simp_all
end
end

section
/-! PROOF. Everything a step can do to the block: the engine's turn, reset, or what one accepted word writes. The
invariants that need no more than this: the error registers (R31, R32), the memories' form, the table (R38), and that a
busy block's configuration is frozen (R43, R44). -/

namespace Sys2Proof.Machine

/-! ### What a word writes of the block -/

/-- What an accepted word writes of the block: a guarded write is ignored while busy (R30), and has its effect
otherwise. -/
inductive WordEffect (s : State) : State → Prop where
  | nothing : WordEffect s s
  | ignored (hbusy : s.busy = true) : WordEffect s { s with wign := true }
  | build (hidle : s.busy = false) : WordEffect s (buildEffect (acceptCommand s))
  | start (hidle : s.busy = false) : WordEffect s (startEffect (acceptCommand s))
  | illegal (hidle : s.busy = false) : WordEffect s (raiseFault .command .illegalCommand 0 (acceptCommand s))
  | config (v : Word) (hidle : s.busy = false) : WordEffect s (storeConfig v s)
  | wincfg (v : Word) (hidle : s.busy = false) : WordEffect s (storeWincfg v s)
  | alpha (j : BitVec 6) (v : Word) (hidle : s.busy = false) : WordEffect s (storeAlpha j.toNat v s)

theorem issueCommand_effect (w : Word) (s : State) : WordEffect s (issueCommand w s) := by
  rcases issueCommand_cases w s with ⟨-, h⟩ | ⟨-, hb, h⟩ | ⟨-, hb, h⟩ | ⟨-, hb, h⟩ | ⟨-, -, -, hb, h⟩ <;> rw [h]
  · exact .nothing
  · exact .ignored hb
  · exact .build hb
  · exact .start hb
  · exact .illegal hb

theorem writeUnlessBusy_effect {effect : State → State} {s : State} (h : s.busy = false → WordEffect s (effect s)) :
    WordEffect s (writeUnlessBusy effect s) := by
  rcases writeUnlessBusy_cases effect s with ⟨hb, he⟩ | ⟨hb, he⟩ <;> rw [he]
  · exact .ignored hb
  · exact h hb

/-- t is s after a word's effect on the block, and with the bus's answer to it. -/
def Answered (s t : State) : Prop :=
  ∃ v, WordEffect s v ∧ t = { v with busData := t.busData, busError := t.busError }

theorem exec_readOrReserved_answered {i : Instr} {s t : State} (hi : isReadOrReserved i = true)
    (h : exec i s = .next t) : Answered s t := by
  obtain ⟨v, e, he⟩ := exec_readOrReserved hi s
  obtain rfl := Host.Outcome.next.inj (he.symm.trans h)
  exact ⟨s, .nothing, rfl⟩

/-- A register write, by the register its offset names. -/
theorem exec_decodeWrite_answered {a : BusAccess} {s t : State} (h : exec (decodeWrite a) s = .next t) :
    Answered s t := by
  unfold decodeWrite at h
  split_ifs at h
  · cases h
    exact ⟨_, writeUnlessBusy_effect (.config a.data), rfl⟩
  · cases h
    exact ⟨_, writeUnlessBusy_effect (.wincfg a.data), rfl⟩
  · cases h
    exact ⟨_, issueCommand_effect a.data s, rfl⟩
  · cases h
    exact ⟨_, writeUnlessBusy_effect (.alpha _ a.data), rfl⟩
  · exact exec_readOrReserved_answered rfl h

theorem exec_decodeBus_answered {a : BusAccess} {s t : State} (h : exec (decodeBus a) s = .next t) :
    Answered s t := by
  unfold decodeBus at h
  split_ifs at h
  · exact exec_decodeWrite_answered h
  · exact exec_readOrReserved_answered (decodeRead_isReadOrReserved _) h
  · exact exec_readOrReserved_answered rfl h

/-- A host word offers a token, accepts one, or is a command or an access with its effect and answer. -/
theorem runWord_host_cases {w : HostWord} {s t : State} (h : runWord (.host w) s = .next t) :
    (∃ v x, w = .push v ∧ t = offerToken x s) ∨ (∃ e, t = acceptToken e s) ∨ Answered s t := by
  rcases runWord_next h with ⟨i, hi, he⟩ | ⟨hi, rfl⟩
  · cases w with
    | cmd w =>
      obtain rfl := Except.ok.inj hi
      rw [exec_decodeCommand] at he
      obtain rfl := Host.Outcome.next.inj he
      exact .inr (.inr ⟨_, issueCommand_effect w s, rfl⟩)
    | push w =>
      obtain rfl := Except.ok.inj hi
      unfold decodeInWord at he
      split_ifs at he <;> cases he <;> exact .inl ⟨w, _, rfl, rfl⟩
    | pop w =>
      simp only [decode, decodeHost, decodeOutWord] at hi
      split_ifs at hi <;> cases hi <;> cases he <;> exact .inr (.inl ⟨_, rfl⟩)
    | bus a =>
      obtain rfl := Except.ok.inj hi
      exact .inr (.inr (exec_decodeBus_answered he))
  · exact absurd hi (decodeHost_ne_noEngineStep w)

/-! ### Everything one step can do to the block -/

/-- One turn's effect on the block, reset apart. -/
inductive BlockEffect (s : State) : State → Prop where
  | engine {t : State} (h : engineTurn s = .next t) : BlockEffect s t
  | word {t : State} (h : WordEffect s t) : BlockEffect s t

/-- t is s after one effect on the block, the host's side of the ports apart. -/
def Changes (s t : State) : Prop := ∃ u v, SameBlock s u ∧ BlockEffect u v ∧ SameBlock v t

theorem SameBlock.refl (s : State) : SameBlock s s := rfl

theorem SameBlock.changes {s t : State} (h : SameBlock s t) : Changes s t :=
  ⟨s, s, .refl s, .word .nothing, h⟩

theorem engineTurn_changes {s t : State} (h : engineTurn s = .next t) : Changes s t :=
  ⟨s, t, .refl s, .engine h, .refl t⟩

theorem Answered.changes {s t : State} (h : Answered s t) : Changes s t := by
  obtain ⟨v, he, ht⟩ := h
  exact ⟨s, v, .refl s, .word he, by rw [ht]; rfl⟩

theorem runWord_host_changes {w : HostWord} {s t : State} (h : runWord (.host w) s = .next t) : Changes s t := by
  rcases runWord_host_cases h with ⟨v, x, -, rfl⟩ | ⟨e, rfl⟩ | ha
  · exact SameBlock.changes rfl
  · exact SameBlock.changes rfl
  · exact ha.changes

/-- The turn that was taken off the agenda is the host's. -/
theorem Changes.of_agenda {s t : State} {rest : List Turn} (h : Changes { s with agenda := rest } t) : Changes s t := by
  obtain ⟨u, v, hu, he, hv⟩ := h
  exact ⟨u, v, hu, he, hv⟩

theorem step_changes {s t : State} (h : step s = .next t) :
    Changes s t ∨ ∃ rest, s.agenda = .reset :: rest ∧ t = resetEvent { s with agenda := rest } := by
  rcases step_next h with ⟨-, he⟩ | ⟨w, rest, -, he⟩ | ⟨rest, -, he⟩ | ⟨rest, -, rfl⟩ | ⟨rest, -, rfl⟩
    | ⟨v, rest, -, rfl⟩ | ⟨w, rest, -, -, rfl⟩ | ⟨w, rest, -, -, he⟩ | ⟨st, rest, -, rfl⟩ | ⟨rest, ha, rfl⟩
  · exact .inl (engineTurn_changes he)
  · exact .inl (runWord_host_changes he).of_agenda
  · exact .inl (engineTurn_changes he).of_agenda
  · exact .inl (SameBlock.changes rfl)
  · exact .inl (SameBlock.changes rfl)
  · exact .inl (SameBlock.changes rfl)
  · exact .inl (SameBlock.changes rfl)
  · exact .inl (engineTurn_changes he)
  · exact .inl (SameBlock.changes rfl)
  · exact .inr ⟨rest, ha, rfl⟩

/-- A property of the block is kept by every step if the engine's turn, every word and reset keep it: the induction step
of every invariant. -/
theorem step_keeps {P : State → Prop} (hsame : ∀ {s t}, SameBlock s t → P s → P t)
    (hengine : ∀ {s t}, engineTurn s = .next t → P s → P t) (hword : ∀ {s t}, WordEffect s t → P s → P t)
    (hreset : ∀ {s}, P s → P (resetEvent s)) {s t : State} (hs : P s) (h : step s = .next t) : P t := by
  rcases step_changes h with ⟨u, v, hu, he | he, hv⟩ | ⟨rest, -, rfl⟩
  · exact hsame hv (hengine he (hsame hu hs))
  · exact hsame hv (hword he (hsame hu hs))
  · exact hreset (hsame (t := { s with agenda := rest }) rfl hs)

/-! ### The error registers (R31, R32) -/

theorem StatusInv.of_same {s t : State} (h : StatusInv s) (hst : stageErr t.stage = stageErr s.stage)
    (hcode : t.errcode = s.errcode) (hpos : t.errpos = s.errpos) : StatusInv t := by
  rw [StatusInv, hst, hcode, hpos]
  exact h

theorem StatusInv.of_clear {s : State} (hst : stageErr s.stage = false) (hcode : s.errcode = 0) (hpos : s.errpos = 0) :
    StatusInv s :=
  ⟨fun _ => ⟨hcode, hpos⟩, fun h => absurd (hst.symm.trans h) (by decide)⟩

/-- A fault leaves ERR = 1 and a code of R210. -/
theorem statusInv_raiseFault (cls : FaultClass) (code : ErrCode) (pos : Nat) (s : State) :
    StatusInv (raiseFault cls code pos s) := by
  refine ⟨fun h => ?_, fun _ => ?_⟩
  · cases cls <;> cases h
  · rw [raiseFault_errcode]
    cases code <;> decide

theorem statusInv_finishAccStep (d' : Option (List Byte)) (p : Nat) {s : State} (h : StatusInv s) :
    StatusInv (finishAccStep d' p (takeByte s)) := by
  rcases finishAccStep_cases d' p (takeByte s) with ⟨d, -, he⟩ | ⟨-, he⟩ <;> rw [he]
  · exact h.of_same rfl rfl rfl
  · exact statusInv_raiseFault _ _ _ _

theorem statusInv_fillByteEffect {b : Byte} {s : State} (hst : s.stage = .fill) (h : StatusInv s) :
    StatusInv (fillByteEffect b s) := by
  rcases fillByteEffect_cases b s with ⟨-, he⟩ | ⟨-, -, he⟩ | ⟨-, -, he⟩ <;> rw [he]
  · exact h.of_same rfl rfl rfl
  · exact h.of_same (by simp [fullEncodeWindow, hst, stageErr]) rfl rfl
  · rcases fullDecodeWindow_cases (s.wb ++ [b]) (takeByte s) with ⟨p, -, hw⟩ | ⟨out, -, hw⟩ <;> rw [hw]
    · exact statusInv_raiseFault _ _ _ _
    · exact h.of_same (by simp [hst, stageErr]) rfl rfl

theorem statusInv_engineStep {s t : State} (he : EngineStep s t) (h : StatusInv s) : StatusInv t := by
  cases he with
  | nothing => exact h
  | accEncByte => exact statusInv_finishAccStep _ _ h
  | @accDecByte b =>
    rcases accDecByteEffect_cases b s with ⟨-, he⟩ | ⟨v, -, he⟩ <;> rw [he]
    · exact statusInv_raiseFault _ _ _ _
    · exact statusInv_finishAccStep _ _ h
  | accEnd hst => exact h.of_same (by simp [accEndEffect, hst, stageErr]) rfl rfl
  | fillByte hst => exact statusInv_fillByteEffect hst h
  | fillEnd hst =>
    rcases fillEndEffect_cases s with ⟨p, -, he⟩ | ⟨out, -, he⟩ <;> rw [he]
    · exact statusInv_raiseFault _ _ _ _
    · exact h.of_same (by simp [hst, stageErr]) rfl rfl
  | emitByte hst hoq hput =>
    obtain ⟨e, rest, -, rfl⟩ := putToken_some.1 hput
    exact h.of_same rfl rfl rfl
  | emitEnd hst hoq heos hput =>
    obtain ⟨e, rest, -, rfl⟩ := putToken_some.1 hput
    exact h.of_same (by simp [hst, stageErr]) rfl rfl
  | emitRefill hst => exact h.of_same (by simp [hst, stageErr]) rfl rfl
  | flushErr hst hput =>
    obtain ⟨e, rest, -, rfl⟩ := putToken_some.1 hput
    exact h.of_same (by cases heos : s.eoseen <;> simp [hst, stageErr, afterFlush]) rfl rfl
  | drainByte => exact h.of_same rfl rfl rfl
  | drainEnd hst => exact h.of_same (by simp [hst, stageErr]) rfl rfl

theorem statusInv_wordEffect {s t : State} (he : WordEffect s t) (h : StatusInv s) : StatusInv t := by
  cases he with
  | nothing => exact h
  | ignored => exact h.of_same rfl rfl rfl
  | build =>
    rcases buildEffect_cases (acceptCommand s) with ⟨-, he⟩ | ⟨-, -, ⟨j, -, he⟩ | ⟨-, he⟩⟩ <;> rw [he]
    · exact statusInv_raiseFault _ _ _ _
    · exact statusInv_raiseFault _ _ _ _
    · exact .of_clear rfl rfl rfl
  | start =>
    rcases startEffect_cases (acceptCommand s) with ⟨code, -, he⟩ | ⟨lat, -, he⟩ <;> rw [he]
    · exact statusInv_raiseFault _ _ _ _
    · exact .of_clear (by cases h : lat.path <;> simp [startStage, stageErr]) rfl rfl
  | illegal => exact statusInv_raiseFault _ _ _ _
  | config | wincfg | alpha => exact h.of_same rfl rfl rfl

/-! ### The memories' form -/

theorem MemoryInv.of_same {s t : State} (h : MemoryInv s) (halpha : t.alpha = s.alpha) (htabc : t.tabc = s.tabc) :
    MemoryInv t := by
  rw [MemoryInv, halpha, htabc]
  exact h

theorem memoryInv_engineTurn {s t : State} (he : engineTurn s = .next t) (h : MemoryInv s) : MemoryInv t :=
  h.of_same (engineTurn_keeps he).alpha (engineTurn_keeps he).tabc

theorem memoryInv_wordEffect {s t : State} (he : WordEffect s t) (h : MemoryInv s) : MemoryInv t := by
  cases he with
  | nothing => exact h
  | build =>
    rcases buildEffect_cases (acceptCommand s) with ⟨-, he⟩ | ⟨-, -, ⟨j, -, he⟩ | ⟨-, he⟩⟩ <;> rw [he]
    · exact h.of_same rfl rfl
    · exact h.of_same rfl rfl
    · exact ⟨h.1, buildTable_wf _ _ _ rfl⟩
  | start =>
    rcases startEffect_cases (acceptCommand s) with ⟨code, -, he⟩ | ⟨lat, -, he⟩ <;> rw [he] <;>
      exact h.of_same rfl rfl
  | ignored | illegal | config | wincfg => exact h.of_same rfl rfl
  | alpha j v => exact ⟨storeAlphaWord_keeps_wf v j.isLt h.1, h.2⟩

/-! ### The table (R38) -/

theorem TableInv.of_invalid {s : State} (h : s.tableValid = false) : TableInv s :=
  fun hv => absurd (h.symm.trans hv) (by decide)

theorem TableInv.of_same {s t : State} (h : TableInv s) (hradix : t.config.radix = s.config.radix)
    (hvalid : t.tableValid = s.tableValid) (halpha : t.alpha = s.alpha) (htabc : t.tabc = s.tabc)
    (htradix : t.tradix = s.tradix) : TableInv t := by
  rw [TableInv, hradix, hvalid, halpha, htabc, htradix]
  exact h

/-- The table of distinct symbols has no other entry than theirs (R105). -/
theorem find_buildTable_some {alpha : Memory} {r c : Nat} {v : Byte} (hr : r ≤ 256) (hnodup : (symbols alpha r).Nodup)
    (h : (buildTable (symbols alpha r) 0 []).find c = some v) : v.toNat < r ∧ (alpha.read v.toNat).toNat = c := by
  by_cases hc : ∃ i, i < r ∧ (alpha.read i).toNat = c
  · obtain ⟨i, hi, rfl⟩ := hc
    have hfind := find_buildTable_symbol hnodup 0 [] (i := i) (by simpa using hi)
    rw [symbols_getElem, h, Nat.zero_add] at hfind
    have hv : v.toNat = i := by
      rw [Option.some.inj hfind, BitVec.toNat_ofNat]
      exact Nat.mod_eq_of_lt (by omega)
    rw [hv]
    exact ⟨hi, rfl⟩
  · have hnone : (buildTable (symbols alpha r) 0 []).find c = none :=
      find_buildTable_of_not_symbol (fun x hx hxc => by
        obtain ⟨i, hi, rfl⟩ := mem_symbols.1 hx
        exact hc ⟨i, hi, hxc⟩) 0 []
    exact absurd (h.symm.trans hnone) (by simp)

/-- The table BUILD derives is the one of its alphabet (R105). -/
theorem tableInv_built {s : State} (hlo : 2 ≤ s.config.radix.toNat) (hhi : s.config.radix.toNat ≤ 256)
    (hnodup : firstDuplicate [] (symbols s.alpha s.config.radix.toNat) 0 = none) :
    TableInv { s with
      tabc := buildTable (symbols s.alpha s.config.radix.toNat) 0 [], tradix := s.config.radix
      tableValid := true, stage := .idle } := by
  have hd := ((firstDuplicate_eq_none_iff _ _ _).1 hnodup).1
  refine fun _ => ⟨rfl, hlo, hhi, fun i hi => ?_, fun c v h => find_buildTable_some hhi hd h⟩
  have hfind := find_buildTable_symbol hd 0 [] (i := i) (by simpa using hi)
  rwa [symbols_getElem, Nat.zero_add] at hfind

theorem tableInv_storeConfig (v : Word) {s : State} (h : TableInv s) : TableInv (storeConfig v s) := by
  by_cases hr : (configOfWord v).radix = s.config.radix
  · exact h.of_same hr (by simp [storeConfig, hr]) rfl rfl rfl
  · exact .of_invalid (by simp [storeConfig, hr])

theorem tableInv_engineTurn {s t : State} (he : engineTurn s = .next t) (h : TableInv s) : TableInv t := by
  have hk := engineTurn_keeps he
  exact h.of_same (by rw [hk.config]) hk.tableValid hk.alpha hk.tabc hk.tradix

theorem tableInv_wordEffect {s t : State} (he : WordEffect s t) (h : TableInv s) : TableInv t := by
  cases he with
  | nothing => exact h
  | build =>
    rcases buildEffect_cases (acceptCommand s) with ⟨-, he⟩ | ⟨hlo, hhi, ⟨j, -, he⟩ | ⟨hd, he⟩⟩ <;> rw [he]
    · exact .of_invalid rfl
    · exact .of_invalid rfl
    · exact tableInv_built hlo hhi hd
  | start =>
    rcases startEffect_cases (acceptCommand s) with ⟨code, -, he⟩ | ⟨lat, -, he⟩ <;> rw [he] <;>
      exact h.of_same rfl rfl rfl rfl rfl
  | ignored | illegal | wincfg => exact h.of_same rfl rfl rfl rfl rfl
  | config v => exact tableInv_storeConfig v h
  | alpha => exact .of_invalid rfl

/-! ### The tokens (R61, R70) -/

/-- A step delivers nothing, or in EMIT or FLUSH_ERR one token for the oldest acceptance. -/
def DeliversInOrder (s t : State) : Prop :=
  t.outTokens = s.outTokens
    ∨ (s.stage = .emit ∨ s.stage = .flushErr) ∧ (∃ e, s.outAccept = e :: t.outAccept)
      ∧ ∃ x, t.outTokens = s.outTokens ++ [x]

/-- A step takes nothing, or in ACC_RUN, FILL or DRAIN the oldest token offered. -/
def TakesInOrder (s t : State) : Prop :=
  t.inOffer = s.inOffer
    ∨ (s.stage = .accRun ∨ s.stage = .fill ∨ s.stage = .drain) ∧ ∃ x, s.inOffer = x :: t.inOffer

theorem TakesInOrder.of_head {s t : State} (hst : s.stage = .accRun ∨ s.stage = .fill ∨ s.stage = .drain)
    {x : InToken} {rest : List InToken} (hin : s.inOffer = x :: rest) (h : t.inOffer = s.inOffer.tail) :
    TakesInOrder s t :=
  .inr ⟨hst, x, by rw [h, hin, List.tail_cons]⟩

theorem putToken_deliversInOrder {x : OutToken} {s t u : State} (hst : s.stage = .emit ∨ s.stage = .flushErr)
    (hput : putToken x s = some u) (hacc : t.outAccept = u.outAccept) (htok : t.outTokens = u.outTokens)
    (hin : t.inOffer = u.inOffer) : DeliversInOrder s t ∧ TakesInOrder s t := by
  obtain ⟨e, rest, he, rfl⟩ := putToken_some.1 hput
  exact ⟨.inr ⟨hst, ⟨e, by rw [he, hacc]⟩, x, htok⟩, .inl hin⟩

theorem finishAccStep_ports (d' : Option (List Byte)) (p : Nat) (s : State) :
    (finishAccStep d' p s).outTokens = s.outTokens ∧ (finishAccStep d' p s).inOffer = s.inOffer := by
  cases d' <;> exact ⟨rfl, rfl⟩

theorem accDecByteEffect_ports (b : Byte) (s : State) :
    (accDecByteEffect b s).outTokens = s.outTokens ∧ (accDecByteEffect b s).inOffer = s.inOffer.tail := by
  rcases accDecByteEffect_cases b s with ⟨-, he⟩ | ⟨v, -, he⟩ <;> rw [he]
  · exact ⟨rfl, rfl⟩
  · exact finishAccStep_ports _ _ (takeByte s)

theorem fillByteEffect_ports (b : Byte) (s : State) :
    (fillByteEffect b s).outTokens = s.outTokens ∧ (fillByteEffect b s).inOffer = s.inOffer.tail := by
  rcases fillByteEffect_cases b s with ⟨-, he⟩ | ⟨-, -, he⟩ | ⟨-, -, he⟩ <;> rw [he]
  · exact ⟨rfl, rfl⟩
  · exact ⟨rfl, rfl⟩
  · rcases fullDecodeWindow_cases (s.wb ++ [b]) (takeByte s) with ⟨p, -, hw⟩ | ⟨out, -, hw⟩ <;> rw [hw] <;>
      exact ⟨rfl, rfl⟩

theorem fillEndEffect_ports (s : State) :
    (fillEndEffect s).outTokens = s.outTokens ∧ (fillEndEffect s).inOffer = s.inOffer.tail := by
  rcases fillEndEffect_cases s with ⟨p, -, he⟩ | ⟨out, -, he⟩ <;> rw [he] <;> exact ⟨rfl, rfl⟩

theorem engineStep_tokens {s t : State} (he : EngineStep s t) : DeliversInOrder s t ∧ TakesInOrder s t := by
  cases he with
  | nothing | emitRefill => exact ⟨.inl rfl, .inl rfl⟩
  | accEncByte hst hdir hpath hin =>
    obtain ⟨hout, hoff⟩ := finishAccStep_ports (accEncStep _ _ _ _) s.incnt.toNat (takeByte s)
    exact ⟨.inl hout, .of_head (.inl hst) hin hoff⟩
  | accDecByte hst hdir hpath hin =>
    obtain ⟨hout, hoff⟩ := accDecByteEffect_ports _ s
    exact ⟨.inl hout, .of_head (.inl hst) hin hoff⟩
  | accEnd hst hpath hin => exact ⟨.inl rfl, .of_head (.inl hst) hin rfl⟩
  | fillByte hst hpath hin =>
    obtain ⟨hout, hoff⟩ := fillByteEffect_ports _ s
    exact ⟨.inl hout, .of_head (.inr (.inl hst)) hin hoff⟩
  | fillEnd hst hpath hin =>
    obtain ⟨hout, hoff⟩ := fillEndEffect_ports s
    exact ⟨.inl hout, .of_head (.inr (.inl hst)) hin hoff⟩
  | emitByte hst hoq hput => exact putToken_deliversInOrder (.inl hst) hput rfl rfl rfl
  | emitEnd hst hoq heos hput => exact putToken_deliversInOrder (.inl hst) hput rfl rfl rfl
  | flushErr hst hput => exact putToken_deliversInOrder (.inr hst) hput rfl rfl rfl
  | drainByte hst hin => exact ⟨.inl rfl, .of_head (.inr (.inr hst)) hin rfl⟩
  | drainEnd hst hin => exact ⟨.inl rfl, .of_head (.inr (.inr hst)) hin rfl⟩

/-- A word's effect on the block moves no token. -/
theorem WordEffect.ports {s t : State} (he : WordEffect s t) : t.outTokens = s.outTokens ∧ t.inOffer = s.inOffer := by
  cases he with
  | nothing | ignored | illegal | config | wincfg | alpha => exact ⟨rfl, rfl⟩
  | build =>
    rcases buildEffect_cases (acceptCommand s) with ⟨-, he⟩ | ⟨-, -, ⟨j, -, he⟩ | ⟨-, he⟩⟩ <;> rw [he] <;>
      exact ⟨rfl, rfl⟩
  | start =>
    rcases startEffect_cases (acceptCommand s) with ⟨code, -, he⟩ | ⟨lat, -, he⟩ <;> rw [he] <;> exact ⟨rfl, rfl⟩

/-- Of the host's words only an IN word moves a token: it adds one at the end (R84). -/
theorem runWord_host_ports {w : HostWord} {s t : State} (h : runWord (.host w) s = .next t) :
    t.outTokens = s.outTokens
      ∧ (t.inOffer = s.inOffer ∨ (∃ v, w = .push v) ∧ ∃ x, t.inOffer = s.inOffer ++ [x]) := by
  rcases runWord_host_cases h with ⟨v, x, rfl, rfl⟩ | ⟨e, rfl⟩ | ⟨u, he, ht⟩
  · exact ⟨rfl, .inr ⟨⟨v, rfl⟩, x, rfl⟩⟩
  · exact ⟨rfl, .inl rfl⟩
  · rw [ht]
    exact ⟨he.ports.1, .inl he.ports.2⟩

/-- Where the engine has the turn, on s with a turn of the agenda taken off or not. -/
theorem tokens_of_engineTurn {s u t : State} (hturn : EngineHasTurn s) (hst : u.stage = s.stage)
    (hacc : u.outAccept = s.outAccept) (hout : u.outTokens = s.outTokens) (hin : u.inOffer = s.inOffer)
    (h : engineTurn u = .next t) :
    (t.outTokens = s.outTokens ∨ EngineHasTurn s ∧ (s.stage = .emit ∨ s.stage = .flushErr)
        ∧ (∃ e, s.outAccept = e :: t.outAccept) ∧ ∃ x, t.outTokens = s.outTokens ++ [x])
      ∧ (t.inOffer = s.inOffer ∨ EngineHasTurn s ∧ (s.stage = .accRun ∨ s.stage = .fill ∨ s.stage = .drain)
        ∧ ∃ x, s.inOffer = x :: t.inOffer) := by
  obtain ⟨hd, ht⟩ := engineStep_tokens (engineTurn_engineStep h)
  rw [DeliversInOrder, hst, hacc, hout] at hd
  rw [TakesInOrder, hst, hin] at ht
  exact ⟨hd.imp_right fun h => ⟨hturn, h⟩, ht.imp_right fun h => ⟨hturn, h⟩⟩

/-! ### The configuration while busy (R43, R44) -/

/-- The configuration, the tables and the latches are the same in s and t. -/
structure SameConfiguration (s t : State) : Prop where
  config : t.config = s.config
  winGroups : t.winGroups = s.winGroups
  alpha : t.alpha = s.alpha
  tabc : t.tabc = s.tabc
  tradix : t.tradix = s.tradix
  tableValid : t.tableValid = s.tableValid
  lat : t.lat = s.lat

theorem SameBlock.sameConfiguration {s t : State} (h : SameBlock s t) : SameConfiguration s t := by
  rw [h]
  constructor <;> rfl

theorem SameConfiguration.trans {s t u : State} (h : SameConfiguration s t) (h' : SameConfiguration t u) :
    SameConfiguration s u where
  config := h'.config.trans h.config
  winGroups := h'.winGroups.trans h.winGroups
  alpha := h'.alpha.trans h.alpha
  tabc := h'.tabc.trans h.tabc
  tradix := h'.tradix.trans h.tradix
  tableValid := h'.tableValid.trans h.tableValid
  lat := h'.lat.trans h.lat

theorem SameBlock.busy {s t : State} (h : SameBlock s t) : t.busy = s.busy := by
  rw [h]
  rfl

/-- Of the effects on a busy block only the engine's and the ignored write are left. -/
theorem BlockEffect.sameConfiguration {s t : State} (he : BlockEffect s t) (hb : s.busy = true) :
    SameConfiguration s t := by
  cases he with
  | engine he =>
    have hk := engineTurn_keeps he
    exact ⟨hk.config, hk.winGroups, hk.alpha, hk.tabc, hk.tradix, hk.tableValid, hk.lat⟩
  | word he =>
    cases he with
    | nothing | ignored => constructor <;> rfl
    | build hidle | start hidle | illegal hidle | config _ hidle | wincfg _ hidle | alpha _ _ hidle =>
      exact absurd (hb.symm.trans hidle) (by decide)

end Sys2Proof.Machine

section
open Sys2Proof Sys2Proof.Machine

/-- Settles O52: a fault writes a code, and only an accepted command leaves ERR = 1. -/
theorem stepKeepsTheErrorRegisters : Obligations.StepKeepsTheErrorRegisters := fun _ _ hs h =>
  step_keeps (P := StatusInv) (fun hsame h => by rw [hsame]; exact h)
    (fun he => statusInv_engineStep (engineTurn_engineStep he)) statusInv_wordEffect (fun _ => .of_clear rfl rfl rfl)
    hs h

/-- Settles O53: what changes RADIX, ALPHA or the table clears TABLE_VALID, or is BUILD. -/
theorem stepKeepsTheTableValid : Obligations.StepKeepsTheTableValid := fun _ _ hs h =>
  step_keeps (P := TableInv) (fun hsame h => by rw [hsame]; exact h) tableInv_engineTurn tableInv_wordEffect
    (fun _ => .of_invalid rfl) hs h

/-- Settles O54: ALPHA is only written by stores and reset, TABC by BUILD and reset. -/
theorem stepKeepsTheMemoryForm : Obligations.StepKeepsTheMemoryForm := fun _ _ hs h =>
  step_keeps (P := MemoryInv) (fun hsame h => by rw [hsame]; exact h) memoryInv_engineTurn memoryInv_wordEffect
    (fun _ => resetEvent_memoryInv _) hs h

/-- Settles O49: every effect but the engine's and the ignored write needs a block that is not busy. -/
theorem busyFreezesTheConfiguration : Obligations.BusyFreezesTheConfiguration := by
  intro s t hb hreset h
  rcases step_changes h with ⟨u, v, hu, he, hv⟩ | ⟨rest, ha, -⟩
  · have hk := (hu.sameConfiguration.trans (he.sameConfiguration (hu.busy.trans hb))).trans hv.sameConfiguration
    exact ⟨hk.config, hk.winGroups, hk.alpha, hk.tabc, hk.tradix, hk.tableValid, hk.lat⟩
  · exact absurd ha (hreset rest)

/-- Settles O51, turn by turn: the engine's turn by what its operation takes and puts, a word by its format. -/
theorem tokensKeepTheirOrder : Obligations.TokensKeepTheirOrder := by
  intro s t h
  rcases step_next h with ⟨ha, he⟩ | ⟨w, rest, ha, he⟩ | ⟨rest, ha, he⟩ | ⟨rest, -, rfl⟩ | ⟨rest, ha, rfl⟩
    | ⟨v, rest, -, rfl⟩ | ⟨w, rest, -, -, rfl⟩ | ⟨w, rest, ha, hw, he⟩ | ⟨st, rest, -, rfl⟩ | ⟨rest, -, rfl⟩
  · obtain ⟨hout, hin⟩ := tokens_of_engineTurn (.inl ha) rfl rfl rfl rfl he
    exact ⟨hout, hin.imp_right .inl⟩
  · obtain ⟨hout, hin⟩ := runWord_host_ports he
    refine ⟨.inl hout, hin.imp_right ?_⟩
    rintro ⟨⟨v, rfl⟩, hx⟩
    exact .inr (.inl ⟨⟨v, rest, ha⟩, hx⟩)
  · obtain ⟨hout, hin⟩ := tokens_of_engineTurn (u := { s with agenda := rest }) (.inr (.inl ⟨rest, ha⟩)) rfl rfl rfl
      rfl he
    exact ⟨hout, hin.imp_right .inl⟩
  · exact ⟨.inl rfl, .inl rfl⟩
  · exact ⟨.inl rfl, .inr (.inr (.inr ⟨⟨rest, ha⟩, rfl⟩))⟩
  · exact ⟨.inl rfl, .inl rfl⟩
  · exact ⟨.inl rfl, .inl rfl⟩
  · obtain ⟨hout, hin⟩ := tokens_of_engineTurn (.inr (.inr ⟨w, rest, ha, hw⟩)) rfl rfl rfl rfl he
    exact ⟨hout, hin.imp_right .inl⟩
  · exact ⟨.inl rfl, .inl rfl⟩
  · exact ⟨.inl rfl, .inl rfl⟩
end
end

section
/-! PROOF. What the ACC path makes of a message (R127 to R130): both loops of R180 are repeated ACC steps, and repeated
steps build the canonical digits of one number. -/

namespace Sys2Proof.Machine

/-! ### Numbers from digits -/

/-- The number a becomes when digits are written behind it. -/
def valueAfter (base a : Nat) (digits : List Nat) : Nat := digits.foldl (fun n x => n * base + x) a

theorem valueBE_eq_valueAfter (base : Nat) (digits : List Nat) : valueBE base digits = valueAfter base 0 digits := rfl

@[simp] theorem valueAfter_nil (base a : Nat) : valueAfter base a [] = a := rfl

@[simp] theorem valueAfter_cons (base a x : Nat) (digits : List Nat) :
    valueAfter base a (x :: digits) = valueAfter base (a * base + x) digits := rfl

theorem valueAfter_append (base a : Nat) (xs ys : List Nat) :
    valueAfter base a (xs ++ ys) = valueAfter base (valueAfter base a xs) ys := List.foldl_append

theorem valueAfter_eq (base a : Nat) (digits : List Nat) :
    valueAfter base a digits = a * base ^ digits.length + valueBE base digits := by
  induction digits generalizing a with
  | nil => simp [valueBE]
  | cons x xs ih =>
    rw [valueAfter_cons, valueBE_eq_valueAfter, valueAfter_cons, ih, ih (0 * base + x), List.length_cons]
    ring

theorem valueBE_append (base : Nat) (xs ys : List Nat) :
    valueBE base (xs ++ ys) = valueBE base xs * base ^ ys.length + valueBE base ys := by
  rw [valueBE_eq_valueAfter, valueAfter_append, valueAfter_eq]
  rfl

theorem messageValue_append (x y : List Byte) :
    messageValue (x ++ y) = messageValue x * 256 ^ y.length + messageValue y := by
  simp [messageValue, valueBE_append]

@[simp] theorem messageValue_nil : messageValue [] = 0 := rfl

@[simp] theorem messageValue_singleton (b : Byte) : messageValue [b] = b.toNat := by
  simp [messageValue, valueBE]

/-- The most significant cell first, or the least: the same number. -/
theorem valueBE_reverse (base : Nat) (d : List Byte) : valueBE base (d.reverse.map BitVec.toNat) = valueLE base d := by
  induction d with
  | nil => rfl
  | cons x xs ih =>
    rw [List.reverse_cons, List.map_append, valueBE_append, ih, valueLE]
    simp [valueBE]
    ring

/-- A number has one canonical list of cells (R128). -/
theorem canonicalDigits_unique {base : Nat} (h2 : 2 ≤ base) {d e : List Byte} (hd : canonicalDigits base d)
    (he : canonicalDigits base e) (h : valueLE base d = valueLE base e) : d = e := by
  have hmap : d.map BitVec.toNat = e.map BitVec.toNat := by rw [← digits_valueLE h2 hd, h, digits_valueLE h2 he]
  exact List.map_injective_iff.2 (fun _ _ => BitVec.eq_of_toNat_eq) hmap

theorem canonicalDigits_nil (base : Nat) : canonicalDigits base [] := ⟨by simp, by simp⟩

/-- A leading 0x00 adds nothing to val(M). -/
theorem messageValue_dropWhile_zero (m : List Byte) : messageValue (m.dropWhile (· == 0)) = messageValue m := by
  induction m with
  | nil => rfl
  | cons b m ih =>
    by_cases hb : b = 0
    · have hcons : messageValue (b :: m) = messageValue m := by
        rw [← List.singleton_append, messageValue_append, messageValue_singleton, hb]
        simp
      rw [List.dropWhile_cons_of_pos (by simp [hb]), ih, hcons]
    · rw [List.dropWhile_cons_of_neg (by simpa using hb)]

theorem canonicalDigits_dropWhile_zero (m : List Byte) : canonicalDigits 256 (m.dropWhile (· == 0)).reverse := by
  refine ⟨fun x _ => x.isLt, ?_⟩
  rw [List.getLast?_reverse]
  intro h
  have hnot := List.head?_dropWhile_not (· == (0 : Byte)) m
  rw [h] at hnot
  exact absurd hnot (by decide)

/-! ### Repeated ACC steps -/

/-- ACC steps one after another, each adding the next number (R180), or none where one of them raises. -/
def accSteps (mul base cap : Nat) : List Nat → List Byte → Option (List Byte)
  | [], d => some d
  | c :: cs, d => (accStep mul base cap d c).bind (accSteps mul base cap cs)

/-- The encode loop of R180 is repeated steps, and its index only says where a fault is. -/
theorem accEncMessage_ok_iff (lr cap : Nat) (m : List Byte) (p : Nat) (d e : List Byte) :
    accEncMessage lr cap m p d = .ok e ↔ accSteps 256 lr cap (m.map BitVec.toNat) d = some e := by
  induction m generalizing p d with
  | nil => simp [accEncMessage, accSteps]
  | cons c m ih =>
    simp only [accEncMessage, List.map_cons, accSteps, accEncStep]
    cases accStep 256 lr cap d c.toNat with
    | none => simp
    | some d' => exact ih _ _

/-- The decode loop of R180 is repeated steps over the characters' digits. -/
theorem accDecMessage_ok_iff (table : Byte → Option Nat) (lr cap : Nat) (m : List Byte) (p : Nat) (d e : List Byte) :
    accDecMessage table lr cap m p d = .ok e ↔
      ∃ digits : List Nat, m.map table = digits.map some ∧ accSteps lr 256 cap digits d = some e := by
  induction m generalizing p d with
  | nil => simp [accDecMessage, accSteps, List.nil_eq]
  | cons c m ih =>
    simp only [accDecMessage, List.map_cons]
    cases table c with
    | none =>
      simp only [reduceCtorEq, false_iff, not_exists, not_and]
      rintro (_ | ⟨v, vs⟩) h <;> simp at h
    | some v =>
      have hcons : (∃ digits : List Nat, some v :: m.map table = digits.map some
            ∧ accSteps lr 256 cap digits d = some e) ↔
          ∃ vs : List Nat, m.map table = vs.map some ∧ accSteps lr 256 cap (v :: vs) d = some e := by
        constructor
        · rintro ⟨_ | ⟨v', vs⟩, h, hs⟩
          · simp at h
          · obtain ⟨hv, hvs⟩ := List.cons.inj h
            obtain rfl := Option.some.inj hv
            exact ⟨vs, hvs, hs⟩
        · rintro ⟨vs, h, hs⟩
          exact ⟨v :: vs, by rw [h, List.map_cons], hs⟩
      rw [hcons]
      simp only [accSteps, accDecStep]
      cases accStep lr 256 cap d v with
      | none => simp
      | some d' => exact ih _ _

/-- A step that adds 0 to no digits has none. -/
theorem accSteps_zero_cons (mul base cap : Nat) (cs : List Nat) :
    accSteps mul base cap (0 :: cs) [] = accSteps mul base cap cs [] := rfl

/-- R128: the steps build the canonical digits of the number whose digits in base mul they add. -/
theorem accSteps_value {mul base cap : Nat} (hm : mul ≤ 256) (h2 : 2 ≤ base) (h : base ≤ 256) {cs : List Nat}
    (hcs : ∀ c ∈ cs, c < mul) {d e : List Byte} (hd : canonicalDigits base d)
    (he : accSteps mul base cap cs d = some e) :
    valueLE base e = valueAfter mul (valueLE base d) cs ∧ canonicalDigits base e := by
  induction cs generalizing d with
  | nil =>
    obtain rfl := Option.some.inj he
    exact ⟨rfl, hd⟩
  | cons c cs ih =>
    obtain ⟨hc, hcs⟩ := List.forall_mem_cons.1 hcs
    obtain ⟨d', hs, he⟩ := Option.bind_eq_some_iff.1 he
    rcases accStep_cases mul base cap d c with ⟨hs', -⟩ | ⟨hs', -⟩
    · obtain rfl := Option.some.inj (hs'.symm.trans hs)
      rw [valueAfter_cons, Nat.mul_comm, ← accDigits_value hm h2 h hd hc]
      exact ih hcs (accDigits_canonical hm h2 h hd hc) he
    · exact absurd (hs'.symm.trans hs) (by simp)

/-- What the steps build from D = []. -/
theorem accSteps_nil_value {mul base cap : Nat} (hm : mul ≤ 256) (h2 : 2 ≤ base) (h : base ≤ 256) {cs : List Nat}
    (hcs : ∀ c ∈ cs, c < mul) {e : List Byte} (he : accSteps mul base cap cs [] = some e) :
    valueLE base e = valueBE mul cs ∧ canonicalDigits base e ∧ (valueBE mul cs = 0 → e = []) := by
  obtain ⟨hv, hcan⟩ := accSteps_value hm h2 h hcs (canonicalDigits_nil base) he
  exact ⟨hv, hcan, fun h0 => canonicalDigits_unique h2 hcan (canonicalDigits_nil base) (hv.trans h0)⟩

/-- The characters an encode gives carry its digits, most significant first. -/
theorem map_table_accEncOutput {alphabet : Nat → Byte} {table : Byte → Option Nat} {lr : Nat}
    (hinv : ∀ i, i < lr → table (alphabet i) = some i) {d : List Byte} (hd : ∀ x ∈ d, x.toNat < lr) :
    (accEncOutput alphabet d).map table = (d.reverse.map BitVec.toNat).map some := by
  rw [accEncOutput, List.map_map, List.map_map]
  exact List.map_congr_left fun x hx => hinv _ (hd x (List.mem_reverse.1 hx))

end Sys2Proof.Machine

section
open Sys2Proof Sys2Proof.Machine

/-- Settles O19: the CARRY stays below the multiplier, 256 or LR, over cells that are digits of the base. -/
theorem carryFitsSixteenBits : Obligations.CarryFitsSixteenBits := by
  intro lr d x c hlo hhi
  refine ⟨fun hd hx hc => ?_, fun hc => ?_, by omega⟩
  · have hcarry := accCells_carry_lt (mul := 256) hd (c := c) (by omega)
    omega
  · have hcarry := accCells_carry_lt (base := 256) (d := d) (fun y _ => y.isLt) hc
    have hx : x.toNat * lr ≤ 255 * lr := Nat.mul_le_mul_right lr (Nat.le_of_lt_succ x.isLt)
    omega

/-- Settles O20: both loops are repeated steps from D = []. -/
theorem accumulationClosedForm : Obligations.AccumulationClosedForm := by
  refine ⟨fun lr cap m d hlo hhi h => ?_, fun table lr cap m d digits hlo hhi hmap hdig h => ?_⟩
  · have hcs : ∀ c ∈ m.map BitVec.toNat, c < 256 := by simpa using fun b _ => b.isLt
    exact accSteps_nil_value le_rfl (by omega) hhi hcs ((accEncMessage_ok_iff lr cap m 0 [] d).1 h)
  · obtain ⟨digits', hmap', hs⟩ := (accDecMessage_ok_iff table lr cap m 0 [] d).1 h
    obtain rfl := List.map_injective_iff.2 (Option.some_injective Nat) (hmap'.symm.trans hmap)
    exact accSteps_nil_value hhi (by decide) le_rfl hdig hs

/-- Settles O21: a first step that adds 0 does nothing; and both the decode of an encode and the message without its
leading zeros are the canonical bytes of val(M). -/
theorem accRoundTripDropsLeadingZeros : Obligations.AccRoundTripDropsLeadingZeros := by
  refine ⟨fun lr cap m d _ _ => ?_, fun table lr cap c m d _ _ hc => ?_,
    fun alphabet table lr cap cap' m d d' hlo hhi hinv henc hdec => ?_⟩
  · rw [accEncMessage_ok_iff, accEncMessage_ok_iff]
    exact Iff.of_eq (congrArg (· = some d) (accSteps_zero_cons 256 lr cap _))
  · simp only [accDecMessage, hc]
    rw [show accDecStep lr cap [] 0 = some [] from rfl, accDecMessage_ok_iff, accDecMessage_ok_iff]
  · obtain ⟨hval, hcan, -⟩ := accumulationClosedForm.1 lr cap m d hlo hhi henc
    have hdig : ∀ v ∈ d.reverse.map BitVec.toNat, v < lr := by simpa using hcan.1
    obtain ⟨hval', hcan', -⟩ := accumulationClosedForm.2 table lr cap' _ d' _ hlo hhi
      (map_table_accEncOutput hinv hcan.1) hdig hdec
    have hd' : d' = (m.dropWhile (· == 0)).reverse := by
      refine canonicalDigits_unique (by decide) hcan' (canonicalDigits_dropWhile_zero m) ?_
      calc valueLE 256 d' = valueBE lr (d.reverse.map BitVec.toNat) := hval'
        _ = messageValue m := by rw [valueBE_reverse, hval]
        _ = messageValue (m.dropWhile (· == 0)) := (messageValue_dropWhile_zero m).symm
        _ = valueLE 256 (m.dropWhile (· == 0)).reverse := by
          rw [← valueBE_reverse, List.reverse_reverse]
          rfl
    rw [accDecOutput, hd', List.reverse_reverse]
end
end

section
/-! PROOF. The PACK path as numbers (R142 to R146): a group is one number below 256^NB = 2^(k·NC), written in one
base and read in the other; and both conversions work group after group, so they split where a whole number of groups ends. -/

namespace Sys2Proof.Machine

/-! ### The geometry (R141) -/

/-- A PACK radix is 2^k, and a group's NC digits of k bits are its NB bytes. -/
theorem geometry_facts {r : BitVec 9} {geo : Geometry} (h : geometry r = some geo) :
    geo.k.toNat * geo.nc = 8 * geo.nb ∧ 0 < geo.nb ∧ geo.nb ≤ geo.nc ∧ geo.nc ≤ 8 := by
  unfold geometry at h
  split_ifs at h <;> cases h <;> decide

section
variable {lat : Latches} {n : Nat} (h : PackLatchesFor lat n)
include h

theorem PackLatchesFor.facts :
    lat.k.toNat * lat.nc = 8 * lat.nb ∧ 0 < lat.nb ∧ lat.nb ≤ lat.nc ∧ lat.nc ≤ 8 := by
  obtain ⟨geo, hgeo, -, hk, hnb, hnc, -⟩ := h
  rw [hk, hnb, hnc]
  exact geometry_facts hgeo

theorem PackLatchesFor.bits_eq : lat.k.toNat * lat.nc = 8 * lat.nb := by
  obtain ⟨hbits, -⟩ := h.facts
  exact hbits

theorem PackLatchesFor.nb_pos : 0 < lat.nb := by
  obtain ⟨-, hpos, -⟩ := h.facts
  exact hpos

theorem PackLatchesFor.nb_le_nc : lat.nb ≤ lat.nc := by
  obtain ⟨-, -, hle, -⟩ := h.facts
  exact hle

theorem PackLatchesFor.nc_le : lat.nc ≤ 8 := by
  obtain ⟨-, -, -, hle⟩ := h.facts
  exact hle

/-- The numbers of a group's digits are the numbers of its bytes. -/
theorem PackLatchesFor.two_pow_bits : 2 ^ (lat.k.toNat * lat.nc) = 256 ^ lat.nb := by
  rw [h.bits_eq, Nat.pow_mul]

end

/-! ### One group: bytes to digits -/

theorem shiftLeft_or_of_lt {k v : Nat} (hv : v < 2 ^ k) (a : Nat) : (a <<< k) ||| v = a * 2 ^ k + v := by
  rw [← Nat.shiftLeft_add_eq_or_of_lt hv, Nat.shiftLeft_eq]

/-- PACC holds the bytes' big-endian value (R142). -/
theorem packBytes_eq (b : List Byte) : packBytes b = messageValue b := by
  have hstep : ∀ (a : Nat) (x : Byte), (a <<< 8) ||| x.toNat = a * 256 + x.toNat :=
    fun a x => shiftLeft_or_of_lt x.isLt a
  simp only [packBytes, messageValue, valueBE, List.foldl_map, hstep]

theorem messageValue_lt (b : List Byte) : messageValue b < 256 ^ b.length := by
  induction b using List.reverseRecOn with
  | nil => simp
  | append_singleton b x ih =>
    have hx := x.isLt
    rw [messageValue_append, messageValue_singleton, List.length_append, List.length_singleton, pow_succ]
    omega

theorem packDigits_lt (k n a : Nat) : ∀ x ∈ packDigits k n a, x < 2 ^ k := by
  induction n generalizing a with
  | zero => simp [packDigits]
  | succ n ih =>
    simp only [packDigits, List.mem_cons, forall_eq_or_imp]
    exact ⟨Nat.mod_lt _ (Nat.two_pow_pos k), ih _⟩

/-- The digits taken from the low end, read from the high end, are the number's low digits (R142). -/
theorem valueBE_packDigits_reverse (k n a : Nat) : valueBE (2 ^ k) (packDigits k n a).reverse = a % 2 ^ (k * n) := by
  induction n generalizing a with
  | zero => simp [packDigits, valueBE, Nat.mod_one]
  | succ n ih =>
    have hpow : 2 ^ (k * (n + 1)) = 2 ^ k * 2 ^ (k * n) := by rw [← Nat.pow_add, Nat.mul_succ, Nat.add_comm]
    rw [packDigits, List.reverse_cons, valueBE_append, ih, Nat.shiftRight_eq_div_pow, hpow, Nat.mod_mul]
    simp [valueBE]
    ring

/-- The digits of a group, most significant first. -/
def groupDigits (k nc : Nat) (b : List Byte) : List Nat := (packDigits k nc (packBytes b)).reverse

theorem packEncGroup_eq (alphabet : Nat → Byte) (k nc : Nat) (b : List Byte) :
    packEncGroup alphabet k nc b = (groupDigits k nc b).map alphabet := rfl

/-- A short group is encoded as a group (R143). -/
theorem packEncShort_eq (alphabet : Nat → Byte) (k nc : Nat) (b : List Byte) :
    packEncShort alphabet k nc b = packEncGroup alphabet k nc b := rfl

theorem groupDigits_length (k nc : Nat) (b : List Byte) : (groupDigits k nc b).length = nc := by
  rw [groupDigits, List.length_reverse, packDigits_length]

theorem groupDigits_lt (k nc : Nat) (b : List Byte) : ∀ x ∈ groupDigits k nc b, x < 2 ^ k :=
  fun x hx => packDigits_lt k nc _ x (List.mem_reverse.1 hx)

/-- A group of at most NB bytes is the number its digits stand for. -/
theorem valueBE_groupDigits {lat : Latches} {n : Nat} (h : PackLatchesFor lat n) {b : List Byte}
    (hb : b.length ≤ lat.nb) : valueBE (2 ^ lat.k.toNat) (groupDigits lat.k.toNat lat.nc b) = messageValue b := by
  rw [groupDigits, valueBE_packDigits_reverse, packBytes_eq, h.two_pow_bits]
  exact Nat.mod_eq_of_lt ((messageValue_lt b).trans_le (Nat.pow_le_pow_right (by decide) hb))

/-! ### One group: digits to bytes -/

/-- Characters that all have a digit accumulate to the digits' number (R144). -/
theorem packAccumulate_of_digits {table : Byte → Option Nat} {k : Nat} {cs : List Byte} {ds : List Nat}
    (hmap : cs.map table = ds.map some) (hlt : ∀ x ∈ ds, x < 2 ^ k) (p a : Nat) :
    packAccumulate table k cs p a = .ok (valueAfter (2 ^ k) a ds) := by
  induction cs generalizing ds p a with
  | nil =>
    obtain rfl : ds = [] := by simpa using hmap.symm
    rfl
  | cons c cs ih =>
    cases ds with
    | nil => simp at hmap
    | cons x xs =>
      obtain ⟨hc, hcs⟩ := List.cons.inj hmap
      obtain ⟨hx, hxs⟩ := List.forall_mem_cons.1 hlt
      simp only [packAccumulate, hc]
      rw [ih hcs hxs, shiftLeft_or_of_lt hx, valueAfter_cons]

/-- Taking one more byte takes the low one last (R144). -/
theorem packUnload_succ (nb a : Nat) (x : Byte) : packUnload (nb + 1) (a * 256 + x.toNat) = packUnload nb a ++ [x] := by
  have hx := x.isLt
  rw [packUnload, packUnload, List.range_succ, List.map_append]
  refine congrArg₂ _ (List.map_congr_left fun j hj => ?_) ?_
  · have hj' := List.mem_range.1 hj
    obtain ⟨i, hi⟩ : ∃ i, nb - 1 - j = i := ⟨_, rfl⟩
    have hpow : 2 ^ (8 * (i + 1)) = 256 * 2 ^ (8 * i) := by rw [Nat.mul_succ, Nat.pow_add, Nat.mul_comm]
    have hdiv : (a * 256 + x.toNat) / 256 = a := by omega
    rw [show nb + 1 - 1 - j = i + 1 by omega, hi, Nat.shiftRight_eq_div_pow, Nat.shiftRight_eq_div_pow, hpow,
      ← Nat.div_div_eq_div_mul, hdiv]
  · have hlow : BitVec.ofNat 8 (a * 256 + x.toNat) = x := by
      apply BitVec.eq_of_toNat_eq
      rw [BitVec.toNat_ofNat]
      omega
    simp [hlow]

theorem packUnload_messageValue (b : List Byte) : packUnload b.length (messageValue b) = b := by
  induction b using List.reverseRecOn with
  | nil => rfl
  | append_singleton b x ih =>
    rw [messageValue_append, messageValue_singleton, List.length_append, List.length_singleton, pow_one,
      packUnload_succ, ih]

theorem messageValue_replicate_zero (j : Nat) : messageValue (List.replicate j 0) = 0 := by
  induction j with
  | zero => rfl
  | succ j ih => rw [List.replicate_succ', messageValue_append, ih]; rfl

/-- Fewer bytes than are taken come out right-aligned (R143). -/
theorem packUnload_messageValue_of_le {nb : Nat} {b : List Byte} (hb : b.length ≤ nb) :
    packUnload nb (messageValue b) = List.replicate (nb - b.length) 0 ++ b := by
  have hlen : (List.replicate (nb - b.length) 0 ++ b).length = nb := by simp; omega
  have hval : messageValue (List.replicate (nb - b.length) 0 ++ b) = messageValue b := by
    rw [messageValue_append, messageValue_replicate_zero, Nat.zero_mul, Nat.zero_add]
  have hunload := packUnload_messageValue (List.replicate (nb - b.length) 0 ++ b)
  rwa [hlen, hval] at hunload

/-- R143, R145: PACK_DEC_GROUP of an encoded group of at most NB bytes is those bytes, right-aligned. -/
theorem packDecGroup_packEncGroup {lat : Latches} {n : Nat} (h : PackLatchesFor lat n) {alphabet : Nat → Byte}
    {table : Byte → Option Nat} (hinv : ∀ i, i < 2 ^ lat.k.toNat → table (alphabet i) = some i) {b : List Byte}
    (hb : b.length ≤ lat.nb) (p : Nat) :
    packDecGroup table lat.k.toNat lat.nb (packEncGroup alphabet lat.k.toNat lat.nc b) p =
      .ok (List.replicate (lat.nb - b.length) 0 ++ b) := by
  have hlt := groupDigits_lt lat.k.toNat lat.nc b
  have hmap : (packEncGroup alphabet lat.k.toNat lat.nc b).map table = (groupDigits lat.k.toNat lat.nc b).map some := by
    rw [packEncGroup_eq, List.map_map]
    exact List.map_congr_left fun x hx => hinv x (hlt x hx)
  simp only [packDecGroup, packAccumulate_of_digits hmap hlt, ← valueBE_eq_valueAfter, valueBE_groupDigits h hb,
    packUnload_messageValue_of_le hb]

end Sys2Proof.Machine
end

section
/-! PROOF. The SLICER's conversions group after group (R169 to R172): each splits where a whole number of groups ends,
so that what holds of one group holds of a message (R145, R146). -/

namespace Sys2Proof.Machine

/-! ### Messages of whole groups -/

/-- Induction over a message of whole groups, first group first. -/
theorem wholeGroups_induction {size : Nat} {P : (m : List Byte) → size ∣ m.length → Prop} (nil : P [] ⟨0, rfl⟩)
    (cons : ∀ (g x : List Byte) (hg : g.length = size) (hx : size ∣ x.length), P x hx →
      P (g ++ x) (by rw [List.length_append, hg]; exact (Nat.dvd_add_right dvd_rfl).2 hx))
    (m : List Byte) (hm : size ∣ m.length) : P m hm := by
  obtain ⟨q, hq⟩ := hm
  induction q generalizing m with
  | zero =>
    obtain rfl := List.eq_nil_of_length_eq_zero hq
    exact nil
  | succ q ih =>
    have hdrop : (m.drop size).length = size * q := by rw [List.length_drop, hq, Nat.mul_succ, Nat.add_sub_cancel]
    have htake : (m.take size).length = size := List.length_take_of_le (by rw [hq, Nat.mul_succ]; omega)
    have hcons := cons _ _ htake ⟨q, hdrop⟩ (ih _ hdrop)
    simpa only [List.take_append_drop] using hcons

theorem div_add_of_dvd {size a : Nat} (hpos : 0 < size) (ha : size ∣ a) (b : Nat) :
    (a + b) / size * size = a + b / size * size := by
  obtain ⟨q, rfl⟩ := ha
  rw [Nat.mul_add_div hpos, Nat.add_mul, Nat.mul_comm q]

/-! ### Encoding (R169) -/

section
variable {lat : Latches} (alphabet : Nat → Byte)

theorem encBody_of_short {x : List Byte} (hx : x.length < lat.nb) : encBody lat alphabet x = [] := by
  rw [encBody, Nat.div_eq_of_lt hx]
  rfl

/-- ENC_FINAL by whether there is a short group. -/
theorem encFinal_eq (x : List Byte) :
    encFinal lat alphabet x =
      encBody lat alphabet (x.take (x.length / lat.nb * lat.nb)) ++
        if x.length / lat.nb * lat.nb < x.length then
          if lat.codec = .base64 then b64EncTail (x.drop (x.length / lat.nb * lat.nb))
          else packEncShort alphabet lat.k.toNat lat.nc (x.drop (x.length / lat.nb * lat.nb))
        else [] := by
  simp only [encFinal]
  split_ifs <;> simp

variable (hnb : 0 < lat.nb)
include hnb

theorem encBody_group_append {g : List Byte} (hg : g.length = lat.nb) (x : List Byte) :
    encBody lat alphabet (g ++ x) = packEncGroup alphabet lat.k.toNat lat.nc g ++ encBody lat alphabet x := by
  have hdrop : ∀ q, (g ++ x).drop ((q + 1) * lat.nb) = x.drop (q * lat.nb) := by
    intro q
    rw [Nat.succ_mul, Nat.add_comm, ← List.drop_drop, List.drop_left' hg]
  have hlen : (g ++ x).length / lat.nb = x.length / lat.nb + 1 := by
    rw [List.length_append, hg, Nat.add_div_left _ hnb]
  simp only [encBody, hlen, List.range_succ_eq_map, List.flatMap_cons, List.flatMap_map, hdrop, Nat.zero_mul,
    List.drop_zero, List.take_left' hg]

/-- ENC_BODY splits where a whole number of groups ends. -/
theorem encBody_append {x : List Byte} (hx : lat.nb ∣ x.length) (y : List Byte) :
    encBody lat alphabet (x ++ y) = encBody lat alphabet x ++ encBody lat alphabet y := by
  induction x, hx using wholeGroups_induction with
  | nil => rw [encBody_of_short alphabet (x := []) (by simpa using hnb), List.nil_append, List.nil_append]
  | cons g x hg _ ih =>
    rw [List.append_assoc, encBody_group_append alphabet hnb hg, ih, encBody_group_append alphabet hnb hg,
      List.append_assoc]

/-- ENC_FINAL encodes leading whole groups as ENC_BODY does. -/
theorem encFinal_append {x : List Byte} (hx : lat.nb ∣ x.length) (y : List Byte) :
    encFinal lat alphabet (x ++ y) = encBody lat alphabet x ++ encFinal lat alphabet y := by
  have hlen := div_add_of_dvd hnb hx y.length
  rw [encFinal_eq, encFinal_eq, List.length_append, hlen, List.take_length_add_append, encBody_append _ hnb hx,
    List.drop_length_add_append, List.append_assoc]
  simp only [Nat.add_lt_add_iff_left]

theorem encFinal_nil : encFinal lat alphabet [] = [] := by
  rw [encFinal_eq, List.take_nil, encBody_of_short alphabet (by simpa using hnb)]
  simp

/-- A message of whole groups has no short one. -/
theorem encFinal_of_whole {m : List Byte} (hm : lat.nb ∣ m.length) :
    encFinal lat alphabet m = encBody lat alphabet m := by
  have h := encFinal_append alphabet hnb hm []
  rwa [List.append_nil, encFinal_nil alphabet hnb, List.append_nil] at h

/-- A message of less than a group is the short group (R143, R191). -/
theorem encFinal_of_short {b : List Byte} (hpos : 0 < b.length) (hb : b.length < lat.nb) :
    encFinal lat alphabet b =
      if lat.codec = .base64 then b64EncTail b else packEncShort alphabet lat.k.toNat lat.nc b := by
  rw [encFinal_eq, Nat.div_eq_of_lt hb, Nat.zero_mul, if_pos hpos, List.take_zero, List.drop_zero,
    encBody_of_short alphabet (by simpa using hnb), List.nil_append]

end

/-- R146: the digits of whole groups, and the number they represent. -/
theorem encBody_digits {lat : Latches} {n : Nat} (h : PackLatchesFor lat n) (alphabet : Nat → Byte) {m : List Byte}
    (hm : lat.nb ∣ m.length) :
    ∃ digits : List Nat, encBody lat alphabet m = digits.map alphabet
      ∧ digits.length * lat.k.toNat = 8 * m.length ∧ (∀ x ∈ digits, x < 2 ^ lat.k.toNat)
      ∧ valueBE (2 ^ lat.k.toNat) digits = messageValue m := by
  induction m, hm using wholeGroups_induction with
  | nil => exact ⟨[], encBody_of_short alphabet (by simpa using h.nb_pos), by simp, by simp, rfl⟩
  | cons g x hg _ ih =>
    obtain ⟨digits, hmap, hlen, hlt, hval⟩ := ih
    refine ⟨groupDigits lat.k.toNat lat.nc g ++ digits, ?_, ?_, ?_, ?_⟩
    · rw [encBody_group_append alphabet h.nb_pos hg, hmap, packEncGroup_eq, List.map_append]
    · rw [List.length_append, groupDigits_length, Nat.add_mul, hlen, List.length_append, hg, Nat.mul_add,
        Nat.mul_comm lat.nc, h.bits_eq]
    · exact List.forall_mem_append.2 ⟨groupDigits_lt _ _ _, hlt⟩
    · have hpow : (2 ^ lat.k.toNat) ^ digits.length = 256 ^ x.length := by
        rw [← Nat.pow_mul, Nat.mul_comm, hlen, Nat.pow_mul]
      rw [valueBE_append, hval, valueBE_groupDigits h hg.le, messageValue_append, hpow]

theorem encBody_length {lat : Latches} (alphabet : Nat → Byte) (x : List Byte) :
    (encBody lat alphabet x).length = x.length / lat.nb * lat.nc := by
  simp [encBody, List.length_flatMap, packEncGroup_length]

theorem nc_dvd_encBody_length {lat : Latches} (alphabet : Nat → Byte) (x : List Byte) :
    lat.nc ∣ (encBody lat alphabet x).length := by
  rw [encBody_length]
  exact dvd_mul_left _ _

/-- Every character ENC_BODY gives is one of the alphabet. -/
theorem mem_encBody {lat : Latches} {alphabet : Nat → Byte} {x : List Byte} {c : Byte}
    (hc : c ∈ encBody lat alphabet x) : ∃ i, i < 2 ^ lat.k.toNat ∧ c = alphabet i := by
  obtain ⟨q, -, hq⟩ := List.mem_flatMap.1 hc
  obtain ⟨i, hi, rfl⟩ := List.mem_map.1 (packEncGroup_eq alphabet _ _ _ ▸ hq)
  exact ⟨i, groupDigits_lt _ _ _ i hi, rfl⟩

/-! ### Decoding (R170, R171) -/

@[simp] theorem joinDecoded_nil_left (r : Except Nat (List Byte)) : joinDecoded (.ok []) r = r := by
  cases r <;> rfl

theorem joinDecoded_assoc (a b c : Except Nat (List Byte)) :
    joinDecoded (joinDecoded a b) c = joinDecoded a (joinDecoded b c) := by
  cases a <;> cases b <;> cases c <;> simp

section
variable {lat : Latches} (table : Byte → Option Nat)

theorem decBody_of_short {x : List Byte} (hx : x.length < lat.nc) (p : Nat) : decBody lat table x p = .ok [] := by
  rw [decBody, Nat.div_eq_of_lt hx]
  rfl

variable (hnc : 0 < lat.nc)
include hnc

theorem decBody_group_append {g : List Byte} (hg : g.length = lat.nc) (x : List Byte) (p : Nat) :
    decBody lat table (g ++ x) p =
      joinDecoded (packDecGroup table lat.k.toNat lat.nb g p) (decBody lat table x (p + lat.nc)) := by
  rw [decBody, List.length_append, hg, Nat.add_div_left _ hnc, decGroups_succ, List.take_left' hg,
    List.drop_left' hg]
  rfl

theorem decBody_nil (p : Nat) : decBody lat table [] p = .ok [] := decBody_of_short table (by simpa using hnc) p

theorem decBody_of_group {g : List Byte} (hg : g.length = lat.nc) (p : Nat) :
    decBody lat table g p = packDecGroup table lat.k.toNat lat.nb g p := by
  have h := decBody_group_append table hnc hg [] p
  rw [List.append_nil, decBody_nil table hnc] at h
  rw [h]
  cases packDecGroup table lat.k.toNat lat.nb g p <;> simp

/-- DEC_BODY splits where a whole number of groups ends. -/
theorem decBody_append {x : List Byte} (hx : lat.nc ∣ x.length) (y : List Byte) (p : Nat) :
    decBody lat table (x ++ y) p =
      joinDecoded (decBody lat table x p) (decBody lat table y (p + x.length)) := by
  induction x, hx using wholeGroups_induction generalizing p with
  | nil => rw [decBody_nil table hnc, joinDecoded_nil_left, List.nil_append, List.length_nil, Nat.add_zero]
  | cons g x hg _ ih =>
    rw [List.append_assoc, decBody_group_append table hnc hg, ih, decBody_group_append table hnc hg, joinDecoded_assoc,
      List.length_append, hg, Nat.add_assoc]

/-- DEC_FINAL decodes leading whole groups as DEC_BODY does, so long as its last group comes later. -/
theorem decFinal_append {x : List Byte} (hx : lat.nc ∣ x.length) {y : List Byte} (hy : lat.nc ≤ y.length) (p : Nat) :
    decFinal lat table (x ++ y) p =
      joinDecoded (decBody lat table x p) (decFinal lat table y (p + x.length)) := by
  have hq : 0 < y.length / lat.nc := Nat.div_pos hy hnc
  have hle : lat.nc ≤ y.length / lat.nc * lat.nc := Nat.le_mul_of_pos_left _ hq
  have hlen : (x ++ y).length / lat.nc * lat.nc = x.length + y.length / lat.nc * lat.nc := by
    rw [List.length_append, div_add_of_dvd hnc hx]
  have hlast : lastGroup lat.nc (x ++ y) = lastGroup lat.nc y := by
    rw [lastGroup, hlen, List.take_length_add_append, Nat.add_sub_assoc hle, List.drop_length_add_append, lastGroup]
  rw [decFinal_of_group (by omega), decFinal_of_group (x := y) (by omega), hlen, hlast, Nat.add_sub_assoc hle,
    List.take_length_add_append, decBody_append table hnc hx, joinDecoded_assoc, Nat.add_assoc]

/-- Without a padded last group DEC_FINAL is DEC_BODY. -/
theorem decFinal_eq_decBody {x : List Byte} (hlast : lat.codec ≠ .base64 ∨ padByte ∉ lastGroup lat.nc x)
    (hx : lat.nc ∣ x.length) (p : Nat) : decFinal lat table x p = decBody lat table x p := by
  have hwhole : x.length / lat.nc * lat.nc = x.length := Nat.div_mul_cancel hx
  by_cases h : x.length / lat.nc * lat.nc = 0
  · obtain rfl := List.eq_nil_of_length_eq_zero (hwhole.symm.trans h)
    rw [decFinal_of_no_group h, decBody_nil table hnc]
  · have hle : lat.nc ≤ x.length := Nat.le_of_dvd (by omega) hx
    have hfront : (x.take (x.length - lat.nc)).length = x.length - lat.nc := List.length_take_of_le (Nat.sub_le _ _)
    have hgroup : lastGroup lat.nc x = x.drop (x.length - lat.nc) := by rw [lastGroup, hwhole, List.take_length]
    have hlen : (x.drop (x.length - lat.nc)).length = lat.nc := by rw [List.length_drop]; omega
    conv_rhs => rw [← List.take_append_drop (x.length - lat.nc) x]
    rw [decFinal_of_group h, decLast_of_unpadded hlast, hwhole, hgroup, decBody_append table hnc
      (by rw [hfront]; exact Nat.dvd_sub hx dvd_rfl), decBody_of_group table hnc hlen, hfront]

end

section
variable {lat : Latches} {n : Nat} (h : PackLatchesFor lat n) {alphabet : Nat → Byte} {table : Byte → Option Nat}
  (hinv : ∀ i, i < 2 ^ lat.k.toNat → table (alphabet i) = some i)
include h hinv

theorem packDecGroup_encGroup {b : List Byte} (hb : b.length = lat.nb) (p : Nat) :
    packDecGroup table lat.k.toNat lat.nb (packEncGroup alphabet lat.k.toNat lat.nc b) p = .ok b := by
  rw [packDecGroup_packEncGroup h hinv hb.le, hb, Nat.sub_self]
  rfl

/-- R145 for DEC_BODY and ENC_BODY. -/
theorem decBody_encBody {m : List Byte} (hm : lat.nb ∣ m.length) (p : Nat) :
    decBody lat table (encBody lat alphabet m) p = .ok m := by
  induction m, hm using wholeGroups_induction generalizing p with
  | nil => rw [encBody_of_short alphabet (by simpa using h.nb_pos), decBody_nil table h.nc_pos]
  | cons g x hg _ ih =>
    rw [encBody_group_append alphabet h.nb_pos hg, decBody_group_append table h.nc_pos (packEncGroup_length _ _ _ _),
      packDecGroup_encGroup h hinv hg, ih, joinDecoded_ok_ok]

end

end Sys2Proof.Machine

section
open Sys2Proof Sys2Proof.Machine

/-- Settles O24: a message of whole groups is encoded by ENC_BODY alone. -/
theorem packDigitsRepresentTheMessage : Obligations.PackDigitsRepresentTheMessage := by
  intro lat n alphabet m h hm
  rw [encFinal_of_whole alphabet h.nb_pos hm]
  exact encBody_digits h alphabet hm

/-- Settles O22: group by group; no character of the encoding is PAD, so the last group is no exception. -/
theorem packRoundTrip : Obligations.PackRoundTrip := by
  intro lat n alphabet table h hinv
  refine ⟨fun b p hb => packDecGroup_encGroup h hinv hb p, fun m hm hpad => ?_⟩
  have hlast : lat.codec ≠ .base64 ∨ padByte ∉ lastGroup lat.nc (encBody lat alphabet m) := by
    refine or_iff_not_imp_left.2 fun hc hmem => ?_
    obtain ⟨i, hi, he⟩ := mem_encBody (List.mem_of_mem_take (List.mem_of_mem_drop hmem))
    exact hpad (not_not.1 hc) i hi he.symm
  rw [encFinal_of_whole alphabet h.nb_pos hm,
    decFinal_eq_decBody table h.nc_pos hlast (nc_dvd_encBody_length alphabet m), decBody_encBody h hinv hm]

/-- Settles O23: the short group is one more group, of a number that leaves the high bytes 0. -/
theorem shortGroupDecodesRightAligned : Obligations.ShortGroupDecodesRightAligned := by
  intro lat n alphabet table b p h hinv hpos hb
  have hshort := packDecGroup_packEncGroup h hinv hb.le
  refine ⟨packEncShort_length _ _ _ _, hshort p, fun m hcodec hm => ?_⟩
  have hsplit : encFinal lat alphabet (m ++ b) =
      encBody lat alphabet m ++ packEncShort alphabet lat.k.toNat lat.nc b := by
    rw [encFinal_append alphabet h.nb_pos hm, encFinal_of_short alphabet h.nb_pos hpos hb, if_neg hcodec]
  have hbody := nc_dvd_encBody_length (lat := lat) alphabet m
  have hlen := packEncShort_length alphabet lat.k.toNat lat.nc b
  refine ⟨by rw [hsplit, encFinal_of_whole alphabet h.nb_pos hm], ?_⟩
  rw [hsplit, decFinal_eq_decBody table h.nc_pos (.inl hcodec)
      (by rw [List.length_append, hlen]; exact (Nat.dvd_add_right hbody).2 dvd_rfl),
    decBody_append table h.nc_pos hbody, decBody_encBody h hinv hm, decBody_of_group table h.nc_pos hlen,
    packEncShort_eq, hshort, joinDecoded_ok_ok, List.append_assoc]
end
end

section
/-! PROOF. BASE64 (R190 to R196): a message is whole groups of three bytes and a tail of none, one or two, which is
written as a padded group and read back by B64_DEC_PAD. -/

namespace Sys2Proof.Machine

/-! ### What a decoding that does not fault gives (R170, R171) -/

theorem joinDecoded_eq_ok {r r' : Except Nat (List Byte)} {out : List Byte} :
    joinDecoded r r' = .ok out ↔ ∃ a b, r = .ok a ∧ r' = .ok b ∧ out = a ++ b := by
  cases r <;> cases r' <;> simp [eq_comm]

/-- DEC_BODY gives NB bytes for each group. -/
theorem decBody_ok_length {lat : Latches} {table : Byte → Option Nat} {x out : List Byte} {p : Nat}
    (h : decBody lat table x p = .ok out) : out.length = x.length / lat.nc * lat.nb := by
  unfold decBody at h
  generalize x.length / lat.nc = q at h
  induction q generalizing x out p with
  | zero =>
    obtain rfl := Except.ok.inj h
    simp
  | succ q ih =>
    rw [decGroups_succ, joinDecoded_eq_ok] at h
    obtain ⟨a, b, ha, hb, rfl⟩ := h
    rw [List.length_append, packDecGroup_ok_length ha, ih hb, Nat.succ_mul, Nat.add_comm]

/-- A message that is one padded group (R171, R192). -/
theorem decFinal_of_padded_group {lat : Latches} (hcodec : lat.codec = .base64) {c : List Byte} (hpos : 0 < lat.nc)
    (hlen : c.length = lat.nc) (hpad : padByte ∈ c) (table : Byte → Option Nat) (p : Nat) :
    decFinal lat table c p = b64DecPad c p := by
  have hwhole : c.length / lat.nc * lat.nc = lat.nc := by rw [hlen, Nat.div_self hpos, Nat.one_mul]
  have hlast : lastGroup lat.nc c = c := by
    rw [lastGroup, hwhole, Nat.sub_self, List.drop_zero, ← hlen, List.take_length]
  rw [decFinal_of_group (by omega), hlast, decLast_of_padded hcodec hpad, hwhole, Nat.sub_self, List.take_zero,
    decBody_of_short table (x := []) (by simpa using hpos), joinDecoded_nil_left, Nat.add_zero]

/-- A padded group that decodes gives its three bytes less its PADs (R192). -/
theorem b64DecPad_ok_length {c out : List Byte} {p : Nat} (hlen : c.length = 4) (hpad : padByte ∈ c)
    (h : b64DecPad c p = .ok out) : out.length + c.count padByte = 3 := by
  obtain ⟨c0, c1, c2, c3, rfl⟩ := List.length_eq_four.1 hlen
  obtain ⟨h0, h1, rfl, h2⟩ := paddedForm_of_ok hpad h
  have hne0 := ne_padByte_of_isSome h0
  have hne1 := ne_padByte_of_isSome h1
  obtain ⟨v0, h0⟩ := Option.isSome_iff_exists.1 h0
  obtain ⟨v1, h1⟩ := Option.isSome_iff_exists.1 h1
  by_cases hc2 : c2 = padByte
  · subst hc2
    rw [b64DecPad_two_digits h0 h1] at h
    obtain rfl := Except.ok.inj h
    simp [hne0, hne1]
  · obtain ⟨v2, h2⟩ := Option.isSome_iff_exists.1 (h2.resolve_left hc2)
    rw [b64DecPad_three_digits h0 h1 h2] at h
    obtain rfl := Except.ok.inj h
    simp [hne0, hne1, hc2]

/-- The last group of a decode that does not fault: NB bytes, less its PADs where BASE64 reads it as padded. -/
theorem decLast_ok_length {lat : Latches} (hcodec : lat.codec = .base64) (hnb : lat.nb = 3)
    {table : Byte → Option Nat} {c out : List Byte} {p : Nat} (hlen : c.length = 4)
    (h : decLast lat table c p = .ok out) : out.length + c.count padByte = 3 := by
  by_cases hpad : padByte ∈ c
  · rw [decLast_of_padded hcodec hpad] at h
    exact b64DecPad_ok_length hlen hpad h
  · rw [decLast_of_unpadded (.inr hpad)] at h
    rw [packDecGroup_ok_length h, hnb, List.count_eq_zero.2 hpad]

/-! ### The characters of ROM64 -/

theorem rom64_ne_padByte {i : Nat} (h : i < 64) : rom64 i ≠ padByte :=
  ne_padByte_of_isSome (by rw [tab64_rom64 h]; rfl)

/-! ### Tails (R191) -/

/-- The one-byte tail's digits. -/
theorem b64EncTail_one (b0 : Byte) :
    b64EncTail [b0] = [rom64 (b0.toNat / 4), rom64 (b0.toNat % 4 * 16), padByte, padByte] := by
  have hhi : (b0.toNat <<< 4) >>> 6 = b0.toNat / 4 := by
    rw [Nat.shiftLeft_eq, Nat.shiftRight_eq_div_pow]
    omega
  have hlo : (b0.toNat <<< 4) % 64 = b0.toNat % 4 * 16 := by
    rw [Nat.shiftLeft_eq]
    omega
  rw [b64EncTail, hhi, hlo]

/-- The two-byte tail's digits. -/
theorem b64EncTail_two (b0 b1 : Byte) :
    b64EncTail [b0, b1] =
      [rom64 (b0.toNat / 4), rom64 (b0.toNat % 4 * 16 + b1.toNat / 16), rom64 (b1.toNat % 16 * 4), padByte] := by
  have hb1 := b1.isLt
  have hval : ((b0.toNat <<< 8) ||| b1.toNat) <<< 2 = (b0.toNat * 256 + b1.toNat) * 4 := by
    rw [shiftLeft_or_of_lt hb1, Nat.shiftLeft_eq]
    rfl
  have h0 : (((b0.toNat <<< 8) ||| b1.toNat) <<< 2) >>> 12 = b0.toNat / 4 := by
    rw [hval, Nat.shiftRight_eq_div_pow]
    omega
  have h1 : ((((b0.toNat <<< 8) ||| b1.toNat) <<< 2) >>> 6) % 64 = b0.toNat % 4 * 16 + b1.toNat / 16 := by
    rw [hval, Nat.shiftRight_eq_div_pow]
    omega
  have h2 : (((b0.toNat <<< 8) ||| b1.toNat) <<< 2) % 64 = b1.toNat % 16 * 4 := by
    rw [hval]
    omega
  rw [b64EncTail, h0, h1, h2]

/-- What is left of a message after its whole groups of three. -/
def isTail (t : List Byte) : Prop := t = [] ∨ (∃ b0, t = [b0]) ∨ ∃ b0 b1, t = [b0, b1]

theorem exists_whole_append_tail (m : List Byte) : ∃ w t, m = w ++ t ∧ 3 ∣ w.length ∧ isTail t := by
  have hlen : (m.drop (m.length / 3 * 3)).length < 3 := by rw [List.length_drop]; omega
  refine ⟨m.take (m.length / 3 * 3), m.drop (m.length / 3 * 3), (List.take_append_drop _ _).symm, ?_, ?_⟩
  · rw [List.length_take_of_le (Nat.div_mul_le_self _ _)]
    exact dvd_mul_left _ _
  · generalize m.drop (m.length / 3 * 3) = t at hlen
    match t with
    | [] => exact .inl rfl
    | [b0] => exact .inr (.inl ⟨b0, rfl⟩)
    | [b0, b1] => exact .inr (.inr ⟨b0, b1, rfl⟩)
    | _ :: _ :: _ :: _ => exact absurd hlen (by simp)

theorem isTail.length_b64EncTail {t : List Byte} (ht : isTail t) :
    (b64EncTail t).length = 4 * ((t.length + 2) / 3) := by
  rcases ht with rfl | ⟨b0, rfl⟩ | ⟨b0, b1, rfl⟩ <;> simp [b64EncTail]

theorem isTail.count_b64EncTail {t : List Byte} (ht : isTail t) :
    (b64EncTail t).count padByte = (3 - t.length % 3) % 3 := by
  rcases ht with rfl | ⟨b0, rfl⟩ | ⟨b0, b1, rfl⟩
  · rfl
  · have hb0 := b0.isLt
    have h0 := rom64_ne_padByte (i := b0.toNat / 4) (by omega)
    have h1 := rom64_ne_padByte (i := b0.toNat % 4 * 16) (by omega)
    simp [b64EncTail_one, h0, h1]
  · have hb0 := b0.isLt
    have hb1 := b1.isLt
    have h0 := rom64_ne_padByte (i := b0.toNat / 4) (by omega)
    have h1 := rom64_ne_padByte (i := b0.toNat % 4 * 16 + b1.toNat / 16) (by omega)
    have h2 := rom64_ne_padByte (i := b1.toNat % 16 * 4) (by omega)
    simp [b64EncTail_two, h0, h1, h2]

/-- B64_DEC_PAD gives a tail back (R191, R192). -/
theorem isTail.b64DecPad_b64EncTail {t : List Byte} (ht : isTail t) (hne : t ≠ []) (p : Nat) :
    b64DecPad (b64EncTail t) p = .ok t := by
  rcases ht with rfl | ⟨b0, rfl⟩ | ⟨b0, b1, rfl⟩
  · exact absurd rfl hne
  · have hb0 := b0.isLt
    have hval : (64 * (b0.toNat / 4) + b0.toNat % 4 * 16) / 16 = b0.toNat := by omega
    rw [b64EncTail_one, b64DecPad_two_digits (tab64_rom64 (by omega)) (tab64_rom64 (by omega)), hval]
    simp
  · have hb0 := b0.isLt
    have hb1 := b1.isLt
    have hhi : (4096 * (b0.toNat / 4) + 64 * (b0.toNat % 4 * 16 + b1.toNat / 16) + b1.toNat % 16 * 4) / 1024 =
        b0.toNat := by omega
    have hlo : BitVec.ofNat 8
        ((4096 * (b0.toNat / 4) + 64 * (b0.toNat % 4 * 16 + b1.toNat / 16) + b1.toNat % 16 * 4) / 4) = b1 := by
      apply BitVec.eq_of_toNat_eq
      rw [BitVec.toNat_ofNat]
      omega
    rw [b64EncTail_two, b64DecPad_three_digits (tab64_rom64 (by omega)) (tab64_rom64 (by omega))
      (tab64_rom64 (by omega)), hhi, hlo, BitVec.ofNat_toNat, BitVec.setWidth_eq]

theorem isTail.padByte_mem {t : List Byte} (ht : isTail t) (hne : t ≠ []) : padByte ∈ b64EncTail t := by
  rcases ht with rfl | ⟨b0, rfl⟩ | ⟨b0, b1, rfl⟩
  · exact absurd rfl hne
  · simp [b64EncTail]
  · simp [b64EncTail]

/-! ### Whole messages -/

section
variable {lat : Latches} {n : Nat} (h : PackLatchesFor lat n) (hcodec : lat.codec = .base64)
include h hcodec

/-- BASE64's geometry: digits of 6 bits, 3 bytes and 4 characters a group (R190). -/
theorem base64_geometry : lat.k.toNat = 6 ∧ lat.nb = 3 ∧ lat.nc = 4 := by
  obtain ⟨geo, hgeo, -, hk, hnb, hnc, -, -, -, h64⟩ := h
  rw [h64 hcodec] at hgeo
  obtain rfl := Option.some.inj hgeo
  rw [hk, hnb, hnc]
  decide

theorem encFinal_base64 {w t : List Byte} (hw : 3 ∣ w.length) (ht : isTail t) (alphabet : Nat → Byte) :
    encFinal lat alphabet (w ++ t) = encBody lat alphabet w ++ b64EncTail t := by
  obtain ⟨-, hnb, -⟩ := base64_geometry h hcodec
  rw [encFinal_append alphabet h.nb_pos (by rwa [hnb])]
  rcases ht with rfl | ⟨b0, rfl⟩ | ⟨b0, b1, rfl⟩
  · rw [encFinal_nil alphabet h.nb_pos]
    rfl
  · rw [encFinal_of_short alphabet h.nb_pos (by simp) (by simp [hnb]), if_pos hcodec]
  · rw [encFinal_of_short alphabet h.nb_pos (by simp) (by simp [hnb]), if_pos hcodec]

theorem count_encBody_base64 (w : List Byte) : (encBody lat rom64 w).count padByte = 0 := by
  obtain ⟨hk, -⟩ := base64_geometry h hcodec
  refine List.count_eq_zero.2 fun hmem => ?_
  obtain ⟨i, hi, he⟩ := mem_encBody hmem
  rw [hk] at hi
  exact rom64_ne_padByte hi he.symm

/-- R196: an encoded message decodes to itself. -/
theorem decFinal_encFinal_base64 (m : List Byte) : decFinal lat tab64 (encFinal lat rom64 m) 0 = .ok m := by
  obtain ⟨hk, hnb, hnc⟩ := base64_geometry h hcodec
  have hinv : ∀ i, i < 2 ^ lat.k.toNat → tab64 (rom64 i) = some i := fun i hi => tab64_rom64 (by rwa [hk] at hi)
  obtain ⟨w, t, rfl, hw, ht⟩ := exists_whole_append_tail m
  rw [encFinal_base64 h hcodec hw ht]
  have hbody := decBody_encBody h hinv (m := w) (by rwa [hnb])
  by_cases hne : t = []
  · have hlast : padByte ∉ lastGroup lat.nc (encBody lat rom64 w) := fun hmem =>
      List.count_eq_zero.1 (count_encBody_base64 h hcodec w) (List.mem_of_mem_take (List.mem_of_mem_drop hmem))
    rw [hne, show b64EncTail [] = [] from rfl, List.append_nil, List.append_nil,
      decFinal_eq_decBody tab64 h.nc_pos (.inr hlast) (nc_dvd_encBody_length rom64 w), hbody]
  · have hlen : (b64EncTail t).length = lat.nc := by
      rw [ht.length_b64EncTail, hnc]
      rcases ht with rfl | ⟨b0, rfl⟩ | ⟨b0, b1, rfl⟩ <;> simp at hne ⊢
    rw [decFinal_append tab64 h.nc_pos (nc_dvd_encBody_length rom64 w) hlen.ge, hbody,
      decFinal_of_padded_group hcodec h.nc_pos hlen (ht.padByte_mem hne), ht.b64DecPad_b64EncTail hne,
      joinDecoded_ok_ok]

/-- R196: a decode that does not fault gives three bytes a group, less the PADs of the last. -/
theorem decFinal_base64_length {table : Byte → Option Nat} {x out : List Byte} {p : Nat}
    (hok : decFinal lat table x p = .ok out) :
    out.length + (lastGroup lat.nc x).count padByte = 3 * (x.length / 4) := by
  obtain ⟨-, hnb, hnc⟩ := base64_geometry h hcodec
  have hwhole := Nat.div_mul_le_self x.length 4
  by_cases hg : x.length / lat.nc * lat.nc = 0
  · rw [decFinal_of_no_group hg] at hok
    obtain rfl := Except.ok.inj hok
    rw [hnc] at hg
    simp [lastGroup, hnc, hg]
    omega
  · have hlast : (lastGroup lat.nc x).length = 4 := by
      rw [hnc] at hg
      rw [lastGroup_eq (by rwa [hnc]), List.length_take, List.length_drop, hnc]
      omega
    rw [decFinal_of_group hg, joinDecoded_eq_ok] at hok
    obtain ⟨body, tail, hbody, htail, rfl⟩ := hok
    have htail' := decLast_ok_length hcodec hnb hlast htail
    have hbody' := decBody_ok_length hbody
    rw [hnb, hnc, List.length_take] at hbody'
    rw [hnc] at hg
    rw [List.length_append]
    omega

end

end Sys2Proof.Machine

section
open Sys2Proof Sys2Proof.Machine

/-- Settles O34: the whole groups of a message and its tail. -/
theorem base64RoundTrip : Obligations.Base64RoundTrip := by
  intro lat n m h hcodec
  obtain ⟨-, hnb, hnc⟩ := base64_geometry h hcodec
  refine ⟨?_, ?_, decFinal_encFinal_base64 h hcodec m, fun out hok => ?_, fun hm b0 b1 => ⟨?_, ?_⟩⟩
  · obtain ⟨w, t, rfl, hw, ht⟩ := exists_whole_append_tail m
    rw [encFinal_base64 h hcodec hw ht, List.length_append, encBody_length, ht.length_b64EncTail, List.length_append,
      hnb, hnc]
    omega
  · obtain ⟨w, t, rfl, hw, ht⟩ := exists_whole_append_tail m
    rw [encFinal_base64 h hcodec hw ht, List.count_append, count_encBody_base64 h hcodec, ht.count_b64EncTail,
      List.length_append]
    omega
  · have hlen := decFinal_base64_length h hcodec hok
    rwa [lastGroup, hnc, Nat.mul_comm] at hlen
  · rw [encFinal_base64 h hcodec hm (.inr (.inl ⟨b0, rfl⟩)), b64EncTail_one,
      encFinal_of_whole rom64 h.nb_pos (by rwa [hnb])]
  · rw [encFinal_base64 h hcodec hm (.inr (.inr ⟨b0, b1, rfl⟩)), b64EncTail_two,
      encFinal_of_whole rom64 h.nb_pos (by rwa [hnb])]
end
end

section
/-! PROOF. The invariant of the whole machine: the engine's states, its latches and its buffers agree (R44 to R49, R88,
R108, R163, R167), and from such a state no step stops. -/

namespace Sys2Proof.Machine

/-! ### D's digits after an ACC step (R45, R128) -/

/-- Whatever byte is added, CARRY stays a byte over digits of the base. -/
theorem accCells_carry_lt_256 {mul base : Nat} (hm : mul ≤ 256) {d : List Byte} (hd : ∀ x ∈ d, x.toNat < base) {c : Nat}
    (hc : c < 256) : (accCells mul base d c).2 < 256 := by
  induction d generalizing c with
  | nil => exact hc
  | cons x xs ih =>
    obtain ⟨hx, hxs⟩ := List.forall_mem_cons.1 hd
    have hprod : x.toNat * mul ≤ x.toNat * 256 := Nat.mul_le_mul_left _ hm
    exact ih hxs (Nat.div_lt_of_lt_mul (by omega))

/-- The step keeps D canonical for every byte that is added, a digit of LR or not. -/
theorem accDigits_canonical_of_byte {mul base : Nat} (h0 : 0 < mul) (hm : mul ≤ 256) (h2 : 2 ≤ base) (h : base ≤ 256)
    {d : List Byte} (hd : canonicalDigits base d) {c : Nat} (hc : c < 256) :
    canonicalDigits base (accDigits mul base d c) := by
  have hfuel : (accCells mul base d c).2 < base ^ accFuel :=
    calc
      _ < 256 := accCells_carry_lt_256 hm hd.1 hc
      _ ≤ 2 ^ accFuel := by decide
      _ ≤ base ^ accFuel := Nat.pow_le_pow_left h2 _
  obtain ⟨⟨hdig, hlast⟩, hnil⟩ := accAppend_canonical h2 h accFuel _ hfuel
  refine ⟨fun x hx => ?_, ?_⟩
  · exact (List.mem_append.1 hx).elim (accCells_digits mul (by omega) h d c x) (hdig x)
  · unfold accDigits
    cases ha : accAppend base accFuel (accCells mul base d c).2 with
    | nil =>
      rw [List.append_nil]
      exact accCells_getLast?_ne_zero h0 (by omega) h hd.2 (hnil ha)
    | cons y ys =>
      rw [List.getLast?_append_cons, ← ha]
      exact hlast

/-- An ACC step that does not raise keeps D within DIGIT_CAP and canonical. -/
theorem accStep_keeps_digits {mul base cap : Nat} (h0 : 0 < mul) (hm : mul ≤ 256) (h2 : 2 ≤ base) (h : base ≤ 256)
    {d e : List Byte} (hlen : d.length ≤ cap) (hd : canonicalDigits base d) {c : Nat} (hc : c < 256)
    (he : accStep mul base cap d c = some e) : e.length ≤ cap ∧ canonicalDigits base e := by
  rcases accStep_cases mul base cap d c with ⟨hs, hle⟩ | ⟨hs, -⟩
  · obtain rfl := Option.some.inj (hs.symm.trans he)
    exact ⟨by omega, accDigits_canonical_of_byte h0 hm h2 h hd hc⟩
  · exact absurd (hs.symm.trans he) (by simp)

/-- The active table's digits are below 256, whatever the codec (R37, R40, R42). -/
theorem activeTable_lt {s : State} {c : Byte} {v : Nat} (h : activeTable s c = some v) : v < 256 := by
  unfold activeTable at h
  cases hc : s.lat.codec <;> simp only [hc] at h
  case base64 | base58 => exact (digitIn_lt h).trans (by decide)
  case generic | reserved =>
    obtain ⟨x, -, rfl⟩ := Option.map_eq_some_iff.1 h
    exact x.isLt

/-! ### How much a window's conversion gives (R49) -/

theorem b64EncTail_length_le (b : List Byte) : (b64EncTail b).length ≤ 8 := by
  unfold b64EncTail
  split <;> simp

section
variable {lat : Latches} {n : Nat} (h : PackLatchesFor lat n)
include h

theorem PackLatchesFor.two_le : 2 ≤ n := by
  obtain ⟨-, -, -, -, -, -, -, hn, -⟩ := h
  exact hn

/-- LW when encoding: whole groups of bytes (R44). -/
theorem PackLatchesFor.w_encode (hdir : lat.dir = .encode) : lat.w = n * lat.nb := by
  obtain ⟨geo, -, -, -, hnb, -, hg, -, hw, -⟩ := h
  rw [hw, hg, hdir, hnb]
  rfl

/-- LW when decoding: whole groups of characters (R44). -/
theorem PackLatchesFor.w_decode (hdir : lat.dir = .decode) : lat.w = n * lat.nc := by
  obtain ⟨geo, -, -, -, -, hnc, hg, -, hw, -⟩ := h
  rw [hw, hg, hdir, hnc]
  rfl

/-- A decoding window is longer than the group it leaves for the next. -/
theorem PackLatchesFor.nc_lt_w (hdir : lat.dir = .decode) : lat.nc < lat.w := by
  have hn := h.two_le
  have hpos := h.nc_pos
  rw [h.w_decode hdir]
  nlinarith

theorem PackLatchesFor.w_pos : 0 < lat.w := by
  have hn := h.two_le
  cases hdir : lat.dir with
  | encode =>
    rw [h.w_encode hdir]
    exact Nat.mul_pos (by omega) h.nb_pos
  | decode => exact Nat.zero_lt_of_lt (h.nc_lt_w hdir)

theorem encBody_length_le (alphabet : Nat → Byte) (x : List Byte) :
    (encBody lat alphabet x).length ≤ 8 * x.length := by
  rw [encBody_length, Nat.mul_comm 8]
  exact Nat.mul_le_mul (Nat.div_le_self _ _) h.nc_le

theorem encFinal_length_le (alphabet : Nat → Byte) (x : List Byte) :
    (encFinal lat alphabet x).length ≤ 8 * (x.length + 1) := by
  have hbody := encBody_length_le h alphabet (x.take (x.length / lat.nb * lat.nb))
  have hle := Nat.div_mul_le_self x.length lat.nb
  have htail := b64EncTail_length_le (x.drop (x.length / lat.nb * lat.nb))
  have hnc := h.nc_le
  rw [List.length_take_of_le hle] at hbody
  rw [encFinal_eq, List.length_append]
  split_ifs
  · omega
  · rw [packEncShort_length]
    omega
  · rw [List.length_nil]
    omega

theorem decBody_length_le {table : Byte → Option Nat} {x out : List Byte} {p : Nat}
    (hok : decBody lat table x p = .ok out) : out.length ≤ 8 * (x.length / lat.nc) := by
  rw [decBody_ok_length hok, Nat.mul_comm]
  exact Nat.mul_le_mul_right _ (h.nb_le_nc.trans h.nc_le)

theorem decLast_length_le {table : Byte → Option Nat} {c out : List Byte} {p : Nat} (hlen : c.length = lat.nc)
    (hok : decLast lat table c p = .ok out) : out.length ≤ 8 := by
  by_cases hcodec : lat.codec = .base64
  · obtain ⟨-, hnb, hnc⟩ := base64_geometry h hcodec
    have := decLast_ok_length hcodec hnb (hlen.trans hnc) hok
    omega
  · rw [decLast_of_unpadded (.inl hcodec)] at hok
    rw [packDecGroup_ok_length hok]
    exact h.nb_le_nc.trans h.nc_le

theorem decFinal_length_le {table : Byte → Option Nat} {x out : List Byte} {p : Nat}
    (hok : decFinal lat table x p = .ok out) : out.length ≤ 8 * x.length := by
  by_cases hg : x.length / lat.nc * lat.nc = 0
  · rw [decFinal_of_no_group hg] at hok
    obtain rfl := Except.ok.inj hok
    simp
  · have hpos := h.nc_pos
    have hq : 0 < x.length / lat.nc := Nat.pos_of_ne_zero (left_ne_zero_of_mul hg)
    have hle := Nat.div_mul_le_self x.length lat.nc
    have hself := Nat.div_le_self x.length lat.nc
    have hnc : lat.nc ≤ x.length / lat.nc * lat.nc := Nat.le_mul_of_pos_left _ hq
    have hlast : (lastGroup lat.nc x).length = lat.nc := by
      rw [lastGroup_eq hg, List.length_take, List.length_drop]
      omega
    have hfront : (x.take (x.length / lat.nc * lat.nc - lat.nc)).length / lat.nc = x.length / lat.nc - 1 := by
      rw [List.length_take_of_le (by omega), ← Nat.sub_one_mul, Nat.mul_div_cancel _ hpos]
    rw [decFinal_of_group hg, joinDecoded_eq_ok] at hok
    obtain ⟨body, tail, hbody, htail, rfl⟩ := hok
    have hbody' := decBody_length_le h hbody
    have htail' := decLast_length_le h hlast htail
    rw [hfront] at hbody'
    rw [List.length_append]
    omega

end

/-! ### The engine's part of the invariant, by STATE -/

/-- The engine's states, latches and buffers. -/
def RunInv (s : State) : Prop := EngineInv s ∧ DigitsInv s ∧ BufferInv s

/-- D and WB are within their capacities (R45, R48). -/
def WithinCapacity (s : State) : Prop := s.d.length ≤ s.params.digitCap ∧ s.wb.length ≤ s.params.wbufCap

/-- STATE is one without a conversion in progress, or one of a conversion that faulted. -/
def Inactive (st : Stage) : Prop := st ≠ .accRun ∧ st ≠ .fill ∧ st ≠ .emit

theorem Inactive.of_rest {st : Stage} (h : st = .idle ∨ st = .done ∨ st = .error) : Inactive st := by
  rcases h with rfl | rfl | rfl <;> exact ⟨by decide, by decide, by decide⟩

theorem Inactive.of_fault {st : Stage} (h : st = .flushErr ∨ st = .drain) : Inactive st := by
  rcases h with rfl | rfl <;> exact ⟨by decide, by decide, by decide⟩

theorem Inactive.faultStage (cls : FaultClass) : Inactive (faultStage cls) := by
  cases cls
  · exact .of_rest (.inr (.inr rfl))
  · exact .of_fault (.inl rfl)

theorem RunInv.withinCapacity {s : State} (h : RunInv s) : WithinCapacity s := by
  obtain ⟨-, -, hd, hwb, -⟩ := h
  exact ⟨hd, hwb⟩

theorem RunInv.oq_nil {s : State} (h : RunInv s) (hst : s.stage ≠ .emit) : s.oq = [] := by
  obtain ⟨⟨-, -, -, hoq⟩, -⟩ := h
  exact hoq hst

theorem RunInv.of_accRun {s : State} (h : RunInv s) (hst : s.stage = .accRun) : AccLatches s ∧ s.eoseen = false := by
  obtain ⟨⟨hacc, -⟩, -⟩ := h
  exact hacc hst

theorem RunInv.of_fill {s : State} (h : RunInv s) (hst : s.stage = .fill) :
    PackLatches s ∧ s.wb.length < s.lat.w ∧ s.eoseen = false := by
  obtain ⟨⟨-, hfilling, heos, -⟩, -⟩ := h
  obtain ⟨hlat, hwb⟩ := hfilling (.inl hst)
  exact ⟨hlat, hwb, heos hst⟩

theorem RunInv.of_emit {s : State} (h : RunInv s) (hst : s.stage = .emit) (heos : s.eoseen = false) :
    PackLatches s ∧ s.wb.length < s.lat.w := by
  obtain ⟨⟨-, hfilling, -⟩, -⟩ := h
  exact hfilling (.inr ⟨hst, heos⟩)

theorem runInv_inactive {s : State} (hst : Inactive s.stage) (hoq : s.oq = []) (hcap : WithinCapacity s) :
    RunInv s := by
  obtain ⟨hacc, hfill, hemit⟩ := hst
  refine ⟨⟨fun h => absurd h hacc, ?_, fun h => absurd h hfill, fun _ => hoq⟩, fun h => absurd h hacc, hcap.1, hcap.2,
    fun _ => by simp [hoq], fun _ => by simp [hoq]⟩
  rintro (h | ⟨h, -⟩)
  · exact absurd h hfill
  · exact absurd h hemit

theorem runInv_accRun {s : State} (hst : s.stage = .accRun) (hlat : AccLatches s) (heos : s.eoseen = false)
    (hoq : s.oq = []) (hdig : DigitsInv s) (hcap : WithinCapacity s) : RunInv s := by
  refine ⟨⟨fun _ => ⟨hlat, heos⟩, ?_, fun _ => heos, fun _ => hoq⟩, hdig, hcap.1, hcap.2, fun _ => by simp [hoq],
    fun _ => by simp [hoq]⟩
  rintro (h | ⟨h, -⟩) <;> exact absurd (hst.symm.trans h) (by decide)

theorem runInv_fill {s : State} (hst : s.stage = .fill) (hlat : PackLatches s) (hwb : s.wb.length < s.lat.w)
    (heos : s.eoseen = false) (hoq : s.oq = []) (hcap : WithinCapacity s) : RunInv s :=
  ⟨⟨fun h => absurd (hst.symm.trans h) (by decide), fun _ => ⟨hlat, hwb⟩, fun _ => heos, fun _ => hoq⟩,
    fun h => absurd (hst.symm.trans h) (by decide), hcap.1, hcap.2, fun _ => by simp [hoq], fun _ => by simp [hoq]⟩

theorem runInv_emit {s : State} (hst : s.stage = .emit)
    (hmore : s.eoseen = false → PackLatches s ∧ s.wb.length < s.lat.w) (hcap : WithinCapacity s)
    (hpack : s.lat.path = .pack → s.oq.length ≤ 8 * s.params.wbufCap)
    (hacc : s.lat.path = .acc → s.oq.length ≤ s.params.digitCap) : RunInv s := by
  refine ⟨⟨fun h => absurd (hst.symm.trans h) (by decide), ?_, fun h => absurd (hst.symm.trans h) (by decide),
    fun h => absurd hst h⟩, fun h => absurd (hst.symm.trans h) (by decide), hcap.1, hcap.2, hpack, hacc⟩
  rintro (h | ⟨-, h⟩)
  · exact absurd (hst.symm.trans h) (by decide)
  · exact hmore h

/-! ### The operations of ACC_RUN -/

theorem runInv_raiseAccFault (code : ErrCode) (p : Nat) {s : State} (hoq : s.oq = [])
    (hwb : s.wb.length ≤ s.params.wbufCap) : RunInv (raiseAccFault code p s) :=
  runInv_inactive (.faultStage .engine) hoq ⟨List.length_take_le _ _, hwb⟩

theorem digitsInv_of_encode {s : State} (hdir : s.lat.dir = .encode) (hlen : s.d.length ≤ s.params.digitCap)
    (hd : canonicalDigits s.lat.radix.toNat s.d) : DigitsInv s := fun _ => ⟨hlen, by rwa [hdir]⟩

theorem digitsInv_of_decode {s : State} (hdir : s.lat.dir = .decode) (hlen : s.d.length ≤ s.params.digitCap)
    (hd : canonicalDigits 256 s.d) : DigitsInv s := fun _ => ⟨hlen, by rwa [hdir]⟩

section
variable {s : State} (h : RunInv s) (hst : s.stage = .accRun)
include h hst

theorem RunInv.digits_encode (hdir : s.lat.dir = .encode) : canonicalDigits s.lat.radix.toNat s.d := by
  obtain ⟨-, hdig, -⟩ := h
  obtain ⟨-, hd⟩ := hdig hst
  rwa [hdir] at hd

theorem RunInv.digits_decode (hdir : s.lat.dir = .decode) : canonicalDigits 256 s.d := by
  obtain ⟨-, hdig, -⟩ := h
  obtain ⟨-, hd⟩ := hdig hst
  rwa [hdir] at hd

/-- The end of an ACC step: the new digits, or the fault. -/
theorem runInv_finishAccStep {d' : Option (List Byte)}
    (hd' : ∀ d, d' = some d → DigitsInv { s with d := d } ∧ d.length ≤ s.params.digitCap) (p : Nat) :
    RunInv (finishAccStep d' p (takeByte s)) := by
  obtain ⟨hlat, heos⟩ := h.of_accRun hst
  obtain ⟨-, hwb⟩ := h.withinCapacity
  have hoq := h.oq_nil (by simp [hst])
  rcases finishAccStep_cases d' p (takeByte s) with ⟨d, hd, he⟩ | ⟨-, he⟩ <;> rw [he]
  · obtain ⟨hdig, hlen⟩ := hd' d hd
    exact runInv_accRun hst hlat heos hoq hdig ⟨hlen, hwb⟩
  · exact runInv_raiseAccFault _ _ hoq hwb

theorem runInv_accEncByteEffect (hdir : s.lat.dir = .encode) (b : Byte) : RunInv (accEncByteEffect b s) := by
  obtain ⟨⟨-, -, hlo, hhi⟩, -⟩ := h.of_accRun hst
  refine runInv_finishAccStep h hst (fun d hd => ?_) _
  obtain ⟨hlen, hcan⟩ := accStep_keeps_digits (by decide) le_rfl (by omega) hhi h.withinCapacity.1
    (h.digits_encode hst hdir) b.isLt hd
  exact ⟨digitsInv_of_encode hdir hlen hcan, hlen⟩

theorem runInv_accDecByteEffect (hdir : s.lat.dir = .decode) (b : Byte) : RunInv (accDecByteEffect b s) := by
  obtain ⟨⟨-, -, hlo, hhi⟩, -⟩ := h.of_accRun hst
  rcases accDecByteEffect_cases b s with ⟨-, he⟩ | ⟨v, hv, he⟩ <;> rw [he]
  · exact runInv_raiseAccFault _ _ (h.oq_nil (by simp [hst])) h.withinCapacity.2
  · refine runInv_finishAccStep h hst (fun d hd => ?_) _
    obtain ⟨hlen, hcan⟩ := accStep_keeps_digits (by omega) hhi (by decide) le_rfl h.withinCapacity.1
      (h.digits_decode hst hdir) (activeTable_lt hv) hd
    exact ⟨digitsInv_of_decode hdir hlen hcan, hlen⟩

end

theorem accOutput_length (s : State) : (accOutput s).length = s.d.length := by
  cases hdir : s.lat.dir with
  | encode => rw [accOutput_encode hdir, List.length_map, List.length_reverse]
  | decode => rw [accOutput_decode hdir, List.length_reverse]

theorem runInv_accEndEffect {s : State} (h : RunInv s) (hpath : s.lat.path = .acc) : RunInv (accEndEffect s) := by
  refine runInv_emit rfl (fun heos => absurd heos (by simp [accEndEffect])) h.withinCapacity
    (fun hp => absurd (hpath.symm.trans hp) (by decide)) fun _ => ?_
  exact (accOutput_length s).trans_le h.withinCapacity.1

/-! ### The operations of FILL -/

theorem runInv_raiseWindowFault (p : Nat) {s : State} (hoq : s.oq = []) (hcap : WithinCapacity s) :
    RunInv (raiseWindowFault p s) :=
  runInv_inactive (.faultStage .engine) hoq hcap

section
variable {s : State} (h : RunInv s) (hst : s.stage = .fill)
include h hst

theorem runInv_fillByteEffect (b : Byte) : RunInv (fillByteEffect b s) := by
  obtain ⟨⟨hlat, hcap⟩, hwb, heos⟩ := h.of_fill hst
  obtain ⟨hd, -⟩ := h.withinCapacity
  have hoq := h.oq_nil (by simp [hst])
  have hpack : s.lat.path ≠ .acc := by
    obtain ⟨geo, -, hpath, -⟩ := hlat
    simp [hpath]
  have hlen : (s.wb ++ [b]).length = s.wb.length + 1 := by simp
  have hfits : (s.wb ++ [b]).length ≤ s.params.wbufCap := by omega
  rcases fillByteEffect_cases b s with ⟨hw, he⟩ | ⟨hw, hdir, he⟩ | ⟨hw, hdir, he⟩ <;> rw [he]
  · have hlt : (s.wb ++ [b]).length < s.lat.w := by omega
    exact runInv_fill hst ⟨hlat, hcap⟩ hlt heos hoq ⟨hd, hlt.le.trans hcap⟩
  · refine runInv_emit rfl (fun _ => ⟨⟨hlat, hcap⟩, hlat.w_pos⟩) ⟨hd, Nat.zero_le _⟩ (fun _ => ?_)
      fun hp => absurd hp hpack
    have hout := encBody_length_le hlat (activeAlphabet (takeByte s)) (s.wb ++ [b])
    exact hout.trans (Nat.mul_le_mul_left 8 hfits)
  · rcases fullDecodeWindow_cases (s.wb ++ [b]) (takeByte s) with ⟨p, -, hwin⟩ | ⟨out, hok, hwin⟩ <;> rw [hwin]
    · exact runInv_raiseWindowFault p hoq ⟨hd, hwb.le.trans hcap⟩
    · have hnc := hlat.nc_lt_w hdir
      have hkeep : ((s.wb ++ [b]).drop (s.lat.w - s.lat.nc)).length = s.lat.nc := by
        rw [List.length_drop]
        omega
      have hwb' : ((s.wb ++ [b]).drop (s.lat.w - s.lat.nc)).length < s.lat.w := by omega
      refine runInv_emit rfl (fun _ => ⟨⟨hlat, hcap⟩, hwb'⟩) ⟨hd, hwb'.le.trans hcap⟩ (fun _ => ?_)
        fun hp => absurd hp hpack
      have hout := decBody_length_le hlat hok
      have hdiv := Nat.div_le_self ((s.wb ++ [b]).take (s.lat.w - s.lat.nc)).length s.lat.nc
      have htake := List.length_take_le' (s.lat.w - s.lat.nc) (s.wb ++ [b])
      exact hout.trans (Nat.mul_le_mul_left 8 (hdiv.trans (htake.trans hfits)))

theorem runInv_fillEndEffect : RunInv (fillEndEffect s) := by
  obtain ⟨⟨hlat, hcap⟩, hwb, heos⟩ := h.of_fill hst
  have hoq := h.oq_nil (by simp [hst])
  have hpack : s.lat.path ≠ .acc := by
    obtain ⟨geo, -, hpath, -⟩ := hlat
    simp [hpath]
  rcases fillEndEffect_cases s with ⟨p, -, he⟩ | ⟨out, hok, he⟩ <;> rw [he]
  · exact runInv_raiseWindowFault p hoq h.withinCapacity
  · refine runInv_emit rfl (fun h => absurd h (by simp)) ⟨h.withinCapacity.1, Nat.zero_le _⟩ (fun _ => ?_)
      fun hp => absurd hp hpack
    cases hdir : s.lat.dir with
    | encode =>
      rw [finalWindow_encode hdir] at hok
      obtain rfl := Except.ok.inj hok
      exact (encFinal_length_le hlat _ _).trans (Nat.mul_le_mul_left 8 (hwb.trans_le hcap))
    | decode =>
      rw [finalWindow_decode hdir] at hok
      exact (decFinal_length_le hlat hok).trans (Nat.mul_le_mul_left 8 (hwb.le.trans hcap))

end

/-! ### Every operation of the engine -/

theorem runInv_engineStep {s t : State} (he : EngineStep s t) (h : RunInv s) : RunInv t := by
  have hcap := h.withinCapacity
  cases he with
  | nothing => exact h
  | accEncByte hst hdir => exact runInv_accEncByteEffect h hst hdir _
  | accDecByte hst hdir => exact runInv_accDecByteEffect h hst hdir _
  | accEnd hst hpath => exact runInv_accEndEffect h hpath
  | fillByte hst => exact runInv_fillByteEffect h hst _
  | fillEnd hst => exact runInv_fillEndEffect h hst
  | emitByte hst hoq hput =>
    obtain ⟨e, rest, -, rfl⟩ := putToken_some.1 hput
    have hmore := h.of_emit hst
    obtain ⟨-, -, -, -, hpack, hacc⟩ := h
    rw [hoq] at hpack hacc
    exact runInv_emit hst hmore hcap (fun hp => (Nat.le_succ _).trans (hpack hp))
      fun hp => (Nat.le_succ _).trans (hacc hp)
  | emitEnd hst hoq heos hput =>
    obtain ⟨e, rest, -, rfl⟩ := putToken_some.1 hput
    exact runInv_inactive (.of_rest (.inr (.inl rfl))) hoq hcap
  | emitRefill hst hoq heos =>
    obtain ⟨hlat, hwb⟩ := h.of_emit hst heos
    exact runInv_fill rfl hlat hwb heos hoq hcap
  | flushErr hst hput =>
    obtain ⟨e, rest, -, rfl⟩ := putToken_some.1 hput
    refine runInv_inactive ?_ (h.oq_nil (by simp [hst])) hcap
    cases s.eoseen
    · exact .of_fault (.inr rfl)
    · exact .of_rest (.inr (.inr rfl))
  | drainByte hst => exact runInv_inactive (.of_fault (.inr hst)) (h.oq_nil (by simp [hst])) hcap
  | drainEnd hst => exact runInv_inactive (.of_rest (.inr (.inr rfl))) (h.oq_nil (by simp [hst])) hcap

/-! ### The words of the host -/

theorem inactive_of_not_busy {s : State} (h : s.busy = false) :
    s.stage = .idle ∨ s.stage = .done ∨ s.stage = .error := by
  unfold State.busy at h
  cases hst : s.stage <;> simp [hst, stageBusy] at h ⊢

/-- START's radix on the ACC path: 58, or a legal TRADIX that is no power of two (R107, R140). -/
theorem startRadix_bounds {s : State} (htable : TableInv s) {lat : Latches} (h : startChecks s = .ok lat)
    (hgeo : geometry lat.radix = none) : 3 ≤ lat.radix.toNat ∧ lat.radix.toNat ≤ 256 := by
  obtain ⟨hres, hvalid, -, -, hradix, -⟩ := startChecks_ok h
  cases hc : s.config.codec with
  | base64 =>
    rw [hradix, hc, startRadix] at hgeo
    exact absurd hgeo (by decide)
  | base58 =>
    rw [hradix, hc, startRadix]
    decide
  | reserved => exact absurd hc hres
  | generic =>
    obtain ⟨-, hlo, hhi, -⟩ := htable (hvalid hc)
    rw [hradix, hc] at hgeo ⊢
    have hne : s.tradix.toNat ≠ 2 := fun h2 => by
      have : s.tradix = 2 := BitVec.eq_of_toNat_eq h2
      rw [startRadix, this] at hgeo
      exact absurd hgeo (by decide)
    exact ⟨by show 3 ≤ s.tradix.toNat; omega, hhi⟩

theorem runInv_startEffect {s : State} (htable : TableInv s) (hidle : s.busy = false) (h : RunInv s) :
    RunInv (startEffect s) := by
  obtain ⟨hd, hwb⟩ := h.withinCapacity
  have hst := inactive_of_not_busy hidle
  rcases startEffect_cases s with ⟨code, -, he⟩ | ⟨lat, hok, he⟩ <;> rw [he]
  · exact runInv_inactive (.faultStage .command) (h.oq_nil (Inactive.of_rest hst).2.2) ⟨hd, hwb⟩
  · have hbounds := startRadix_bounds htable hok
    obtain ⟨hres, -, hcodec, hdir, hradix, ⟨hgeo, hlat⟩ | ⟨geo, hgeo, hpath, hk, hnb, hnc, hg, hn, hw, hcap⟩⟩ :=
      startChecks_ok hok
    · obtain ⟨hlo, hhi⟩ := hbounds hgeo
      have hpath : lat.path = .acc := by rw [hlat]
      exact runInv_accRun (congrArg startStage hpath) ⟨hpath, hgeo, hlo, hhi⟩ rfl rfl
        (fun _ => ⟨Nat.zero_le _, canonicalDigits_nil _⟩) ⟨Nat.zero_le _, Nat.zero_le _⟩
    · have h64 : lat.codec = .base64 → lat.radix = 64 := fun hc => by rw [hradix, ← hcodec, hc]; rfl
      have hfor : PackLatchesFor lat s.winGroups.toNat :=
        ⟨geo, hgeo, hpath, hk, hnb, hnc, by rw [hg, hdir], hn, hw, h64⟩
      exact runInv_fill (congrArg startStage hpath) ⟨hfor, hcap⟩ hfor.w_pos rfl rfl ⟨Nat.zero_le _, Nat.zero_le _⟩

theorem runInv_buildEffect {s : State} (hidle : s.busy = false) (h : RunInv s) : RunInv (buildEffect s) := by
  have hcap := h.withinCapacity
  have hoq := h.oq_nil (Inactive.of_rest (inactive_of_not_busy hidle)).2.2
  rcases buildEffect_cases s with ⟨-, he⟩ | ⟨-, -, ⟨j, -, he⟩ | ⟨-, he⟩⟩ <;> rw [he]
  · exact runInv_inactive (.faultStage .command) hoq hcap
  · exact runInv_inactive (.faultStage .command) hoq hcap
  · exact runInv_inactive (.of_rest (.inl rfl)) hoq hcap

theorem runInv_wordEffect {s t : State} (he : WordEffect s t) (htable : TableInv s) (h : RunInv s) : RunInv t := by
  have hcap := h.withinCapacity
  cases he with
  | nothing | ignored => exact h
  | build hidle => exact runInv_buildEffect (s := acceptCommand s) hidle h
  | start hidle => exact runInv_startEffect (s := acceptCommand s) htable hidle h
  | illegal hidle =>
    exact runInv_inactive (.faultStage .command) (h.oq_nil (Inactive.of_rest (inactive_of_not_busy hidle)).2.2) hcap
  | config _ hidle | wincfg _ hidle | alpha _ _ hidle =>
    have hst := Inactive.of_rest (inactive_of_not_busy hidle)
    exact runInv_inactive hst (h.oq_nil hst.2.2) hcap

/-! ### The whole invariant -/

theorem WordEffect.params {s t : State} (he : WordEffect s t) : t.params = s.params := by
  cases he with
  | nothing | ignored | illegal | config | wincfg | alpha => rfl
  | build =>
    rcases buildEffect_cases (acceptCommand s) with ⟨-, he⟩ | ⟨-, -, ⟨j, -, he⟩ | ⟨-, he⟩⟩ <;> rw [he] <;> rfl
  | start =>
    rcases startEffect_cases (acceptCommand s) with ⟨code, -, he⟩ | ⟨lat, -, he⟩ <;> rw [he] <;> rfl

theorem inv_engineTurn {s t : State} (he : engineTurn s = .next t) (h : Inv s) : Inv t := by
  obtain ⟨hparams, hstatus, hmem, htable, hrun⟩ := h
  have hstep := engineTurn_engineStep he
  exact ⟨by rwa [(engineTurn_keeps he).params], statusInv_engineStep hstep hstatus, memoryInv_engineTurn he hmem,
    tableInv_engineTurn he htable, runInv_engineStep hstep hrun⟩

theorem inv_wordEffect {s t : State} (he : WordEffect s t) (h : Inv s) : Inv t := by
  obtain ⟨hparams, hstatus, hmem, htable, hrun⟩ := h
  exact ⟨by rwa [he.params], statusInv_wordEffect he hstatus, memoryInv_wordEffect he hmem,
    tableInv_wordEffect he htable, runInv_wordEffect he htable hrun⟩

theorem inv_resetEvent {s : State} (h : Inv s) : Inv (resetEvent s) := by
  obtain ⟨hparams, -⟩ := h
  exact ⟨hparams, .of_clear rfl rfl rfl, resetEvent_memoryInv s, .of_invalid rfl,
    runInv_inactive (.of_rest (.inl rfl)) rfl ⟨Nat.zero_le _, Nat.zero_le _⟩⟩

/-! ### No step stops -/

/-- Every instruction's meaning answers a next state. -/
theorem exec_total (i : Instr) (s : State) : ∃ t, exec i s = .next t := by
  cases i with
  | accEncByte | accDecByte | accEnd | fillByte | fillEnd | emitRefill | drainByte | drainEnd =>
    simp only [exec, execAccEncByte, execAccDecByte, execAccEnd, execFillByte, execFillEnd, execEmitRefill,
      execDrainByte, execDrainEnd]
    split <;> exact ⟨_, rfl⟩
  | emitByte | emitEnd | flushErr =>
    simp only [exec, execEmitByte, execEmitEnd, execFlushErr]
    repeat' split
    all_goals exact ⟨_, rfl⟩
  | _ => exact ⟨_, rfl⟩

/-- R88: where the latches fit the state, the engine's selector is one that occurs. -/
theorem engineTurn_total {s : State} (hacc : s.stage = .accRun → s.lat.path = .acc)
    (hfill : s.stage = .fill → s.lat.path = .pack) : ∃ t, engineTurn s = .next t := by
  by_cases hrest : s.stage = .idle ∨ s.stage = .done ∨ s.stage = .error
  · exact ⟨s, engineTurn_resting hrest⟩
  · have hrun : ∀ tok, (tok = true → s.stage = .accRun ∨ s.stage = .fill ∨ s.stage = .drain) →
        selector s = some ⟨dselOf s.stage tok s.lat.dir s.lat.path s.lat.codec, !s.oq.isEmpty, s.eoseen⟩ →
        ∃ t, engineTurn s = .next t := by
      intro tok htok hsel
      obtain ⟨i, hi⟩ := selects_some s.lat.dir s.lat.path s.lat.codec (!s.oq.isEmpty) s.eoseen hrest hacc hfill htok
      rw [engineTurn_of_selector hsel hi]
      exact exec_total i s
    by_cases htakes : s.stage = .accRun ∨ s.stage = .fill ∨ s.stage = .drain
    · match hin : s.inOffer with
      | [] => exact ⟨s, engineTurn_waiting htakes hin⟩
      | .byte _ :: _ => exact hrun false (by simp) (selector_of_byte htakes hin)
      | .eos :: _ => exact hrun true (fun _ => htakes) (selector_of_eos htakes hin)
    · exact hrun false (by simp) (selector_of_no_token htakes)

theorem RunInv.engineTurn_total {s u : State} (h : RunInv s) (hst : u.stage = s.stage) (hlat : u.lat = s.lat) :
    ∃ t, engineTurn u = .next t := by
  refine Machine.engineTurn_total (fun hacc => ?_) fun hfill => ?_
  · obtain ⟨⟨hpath, -⟩, -⟩ := h.of_accRun (hst.symm.trans hacc)
    rw [hlat, hpath]
  · obtain ⟨⟨⟨geo, -, hpath, -⟩, -⟩, -⟩ := h.of_fill (hst.symm.trans hfill)
    rw [hlat, hpath]

/-- R90: every host word but an OUT word that is never produced has an instruction. -/
theorem decodeHost_total {w : HostWord}
    (hw : ∀ v, w = .pop v → v ∈ [outWord .endOk, outWord .endErr] ∨ v.extractLsb' 8 2 = 0#2) :
    ∃ i, decodeHost w = .ok i := by
  cases w with
  | cmd w => exact ⟨_, rfl⟩
  | push w => exact ⟨_, rfl⟩
  | bus a => exact ⟨_, rfl⟩
  | pop v =>
    rcases hw v rfl with hmem | hdata
    · rcases List.mem_pair.1 hmem with rfl | rfl
      · exact ⟨_, rfl⟩
      · exact ⟨_, rfl⟩
    · exact ⟨_, if_pos hdata⟩

end Sys2Proof.Machine

section
open Sys2Proof Sys2Proof.Machine

/-- Settles O55: the engine's turn, every word and reset keep each part of the invariant. -/
theorem stepKeepsTheInvariant : Obligations.StepKeepsTheInvariant := fun _ _ hs h =>
  step_keeps (P := Inv) (fun hsame h => by rw [hsame]; exact h) inv_engineTurn inv_wordEffect inv_resetEvent hs h

/-- Settles O56: nothing runs and every buffer is empty. -/
theorem resetMeetsTheInvariant : Obligations.ResetMeetsTheInvariant :=
  ⟨by decide, .of_clear rfl rfl rfl, ⟨rfl, rfl⟩, .of_invalid rfl,
    runInv_inactive (.of_rest (.inl rfl)) rfl ⟨Nat.zero_le _, Nat.zero_le _⟩⟩

/-- Settles O57: the two stops are a selector that the latches exclude and an OUT word that the premise excludes. -/
theorem invariantStepNeverStops : Obligations.InvariantStepNeverStops := by
  rintro s ⟨-, -, -, -, hinv⟩ hlegal
  have hrun : RunInv s := hinv
  match ha : s.agenda with
  | [] =>
    rw [step_of_empty ha]
    exact hrun.engineTurn_total rfl rfl
  | .word w :: rest =>
    obtain ⟨i, hi⟩ := decodeHost_total (w := w) fun v hv => hlegal v rest (by rw [ha, hv])
    rw [step_of_word ha, runWord_of_decode (f := .host w) hi]
    exact exec_total i _
  | .engine :: rest =>
    rw [step_of_engine ha]
    exact hrun.engineTurn_total rfl rfl
  | .wait w :: rest =>
    rw [step_of_wait ha]
    split
    · exact ⟨_, rfl⟩
    · exact hrun.engineTurn_total rfl rfl
  | .reset :: rest => exact ⟨_, step_of_reset ha⟩
  | .accept :: rest | .withdraw :: rest | .check v :: rest | .poll st :: rest =>
    simp [step, takeTurn, ha, exec, execRdStatus]
end
end

section
/-! PROOF. Runs of the engine alone: what EMIT delivers (R164, R165, R173) and how a fault ends (R175, R176). -/

namespace Sys2Proof.Machine

/-! ### Runs -/

/-- Some number of engine turns leads from s to t. -/
def EngineRun : State → State → Prop := Relation.ReflTransGen fun s t => engineTurn s = .next t

theorem EngineRun.refl (s : State) : EngineRun s s := Relation.ReflTransGen.refl

theorem EngineRun.of_turn {s t : State} (h : engineTurn s = .next t) : EngineRun s t := Relation.ReflTransGen.single h

theorem EngineRun.trans {s t u : State} (h : EngineRun s t) (h' : EngineRun t u) : EngineRun s u :=
  Relation.ReflTransGen.trans h h'

theorem EngineRun.keeps {s t : State} (h : EngineRun s t) : EngineKeeps s t := by
  induction h with
  | refl => exact .refl s
  | tail _ hturn ih => exact ih.trans (engineTurn_keeps hturn)

theorem Reaches.refl (s : State) : Reaches s s := ⟨0, rfl⟩

theorem Reaches.of_step {s t u : State} (h : step s = .next t) (h' : Reaches t u) : Reaches s u := by
  obtain ⟨n, hn⟩ := h'
  refine ⟨n + 1, ?_⟩
  have hcore : Sys2Proof.core.step s = .next t := h
  simp [Host.Core.run, hcore, hn]

/-- With an empty agenda only the engine moves, so its turns are steps (assumption log 4). -/
theorem EngineRun.reaches {s t : State} (h : EngineRun s t) (ha : s.agenda = []) : Reaches s t := by
  induction h using Relation.ReflTransGen.head_induction_on with
  | refl => exact .refl t
  | head hturn _ ih => exact .of_step ((step_of_empty ha).trans hturn) (ih ((engineTurn_keeps hturn).agenda.trans ha))

/-- The active tables of two states with the same latches and memories (R43). -/
theorem EngineKeeps.activeAlphabet {s t : State} (h : EngineKeeps s t) : activeAlphabet t = activeAlphabet s := by
  unfold Machine.activeAlphabet
  rw [h.lat, h.alpha]

theorem EngineKeeps.activeTable {s t : State} (h : EngineKeeps s t) : activeTable t = activeTable s := by
  unfold Machine.activeTable
  rw [h.lat, h.tabc]

/-! ### How a conversion ends -/

/-- From s the engine runs to DONE: n more bytes and End taken, exactly these bytes and End(ok) delivered. -/
def RunsToDone (s : State) (n : Nat) (out : List Byte) (rest : List InToken) : Prop :=
  ∃ t, EngineRun s t ∧ t.stage = .done ∧ t.outTokens = s.outTokens ++ out.map OutToken.byte ++ [.endOk]
    ∧ t.inOffer = rest ∧ t.incnt = s.incnt + BitVec.ofNat 32 n ∧ t.outcnt = s.outcnt + BitVec.ofNat 32 out.length

/-- From s the engine runs to ERROR, as `EndsErr` says. -/
def RunsToError (s : State) (code : ErrCode) (pos : Nat) (before : List Byte) (rest : List InToken) : Prop :=
  ∃ t, EngineRun s t ∧ EndsErr s t code pos before rest

section
variable {s u : State} {rest : List InToken}

theorem RunsToDone.of_run (h : EngineRun s u) {k n : Nat} {first out : List Byte}
    (hin : u.incnt = s.incnt + BitVec.ofNat 32 k) (hcnt : u.outcnt = s.outcnt + BitVec.ofNat 32 first.length)
    (hout : u.outTokens = s.outTokens ++ first.map OutToken.byte) (h' : RunsToDone u n out rest) :
    RunsToDone s (k + n) (first ++ out) rest := by
  obtain ⟨t, hrun, hst, htok, hoffer, hincnt, houtcnt⟩ := h'
  refine ⟨t, h.trans hrun, hst, ?_, hoffer, ?_, ?_⟩
  · rw [htok, hout]
    simp
  · rw [hincnt, hin, BitVec.ofNat_add, BitVec.add_assoc]
  · rw [houtcnt, hcnt, List.length_append, BitVec.ofNat_add, BitVec.add_assoc]

theorem RunsToError.of_run (h : EngineRun s u) {code : ErrCode} {pos : Nat} {first before : List Byte}
    (hout : u.outTokens = s.outTokens ++ first.map OutToken.byte) (h' : RunsToError u code pos before rest) :
    RunsToError s code pos (first ++ before) rest := by
  obtain ⟨t, hrun, hst, hcode, hpos, hoffer, htok⟩ := h'
  refine ⟨t, h.trans hrun, hst, hcode, hpos, hoffer, ?_⟩
  rw [htok, hout]
  simp

/-! ### EMIT -/

/-- EMIT delivers the whole output queue while OUT accepts (R164). -/
theorem engineRun_emitBytes (hst : s.stage = .emit) (hacc : s.oq.length ≤ s.outAccept.length) :
    ∃ failed, EngineRun s { s with
      oq := [], outcnt := s.outcnt + BitVec.ofNat 32 s.oq.length
      outTokens := s.outTokens ++ s.oq.map OutToken.byte, outAccept := s.outAccept.drop s.oq.length
      assertFailed := failed } := by
  generalize hoq : s.oq = out at hacc ⊢
  induction out generalizing s with
  | nil =>
    refine ⟨s.assertFailed, ?_⟩
    simp only [List.length_nil, List.map_nil, List.append_nil, List.drop_zero, BitVec.add_zero]
    rw [← hoq]
    exact .refl s
  | cons b out ih =>
    obtain ⟨e, more, hmore⟩ := List.exists_cons_of_length_pos (l := s.outAccept) (by simp at hacc; omega)
    have hturn := (engineTurn_emitByte hst hoq).trans (exec_emitByte_selected _ _ _ hst hoq hmore)
    rw [hmore] at hacc
    obtain ⟨failed, hrun⟩ := ih (s := { s with
      outTokens := s.outTokens ++ [.byte b], oq := out, outcnt := s.outcnt + 1, outAccept := more
      assertFailed := s.assertFailed || breaks e (.byte b) }) hst rfl (by simpa using hacc)
    refine ⟨failed, (EngineRun.of_turn hturn).trans ?_⟩
    have hcount : s.outcnt + BitVec.ofNat 32 (b :: out).length = s.outcnt + 1 + BitVec.ofNat 32 out.length := by
      rw [List.length_cons, Nat.add_comm, BitVec.ofNat_add, BitVec.add_assoc]
      rfl
    rw [hcount, hmore]
    simpa using hrun

/-- After End, EMIT delivers the queue and End(ok), and the conversion is done (R164, R165). -/
theorem runsToDone_of_emit (hst : s.stage = .emit) (heos : s.eoseen = true)
    (hacc : s.oq.length < s.outAccept.length) : RunsToDone s 0 s.oq s.inOffer := by
  obtain ⟨failed, hrun⟩ := engineRun_emitBytes hst hacc.le
  obtain ⟨e, more, hmore⟩ := List.exists_cons_of_length_pos (l := s.outAccept.drop s.oq.length) (by simp; omega)
  have hturn := (engineTurn_emitEnd (s := { s with
      oq := [], outcnt := s.outcnt + BitVec.ofNat 32 s.oq.length
      outTokens := s.outTokens ++ s.oq.map OutToken.byte, outAccept := s.outAccept.drop s.oq.length
      assertFailed := failed }) hst rfl heos).trans (exec_emitEnd_selected _ _ _ hst rfl heos hmore)
  exact ⟨_, hrun.trans (.of_turn hturn), rfl, rfl, rfl, by simp, rfl⟩

/-- Before End, EMIT delivers the queue and goes back to FILL (R164, R173). -/
theorem engineRun_refill (hst : s.stage = .emit) (heos : s.eoseen = false) (hacc : s.oq.length ≤ s.outAccept.length) :
    ∃ failed, EngineRun s { s with
      oq := [], outcnt := s.outcnt + BitVec.ofNat 32 s.oq.length
      outTokens := s.outTokens ++ s.oq.map OutToken.byte, outAccept := s.outAccept.drop s.oq.length
      assertFailed := failed, stage := .fill } := by
  obtain ⟨failed, hrun⟩ := engineRun_emitBytes hst hacc
  exact ⟨failed, hrun.trans (.of_turn (engineTurn_emitRefill hst rfl heos))⟩

/-! ### A fault -/

/-- DRAIN takes what is left of the message, uncounted (R176). -/
theorem engineRun_drain {m : List Byte} (hst : s.stage = .drain)
    (hin : s.inOffer = m.map InToken.byte ++ .eos :: rest) :
    EngineRun s { s with inOffer := rest, eoseen := true, stage := .error } := by
  induction m generalizing s with
  | nil =>
    have hturn := engineTurn_drainEnd hst hin
    rw [takeToken_eq hin] at hturn
    exact .of_turn hturn
  | cons b m ih =>
    have hturn := engineTurn_drainByte hst hin
    rw [takeToken_eq hin] at hturn
    exact (EngineRun.of_turn hturn).trans
      (ih (s := { s with inOffer := m.map InToken.byte ++ .eos :: rest }) hst rfl)

/-- What is still offered of the message: nothing once End has been taken, else some bytes and End. -/
def LeftOver (s : State) (rest : List InToken) : Prop :=
  (s.eoseen = true ∧ s.inOffer = rest) ∨
    (s.eoseen = false ∧ ∃ m : List Byte, s.inOffer = m.map InToken.byte ++ .eos :: rest)

/-- After an engine fault, End(err) is delivered and the rest of the message is drained (R175, R176). -/
theorem runsToError_of_flushErr (hst : s.stage = .flushErr) (hacc : s.outAccept ≠ []) (hleft : LeftOver s rest)
    {code : ErrCode} (hcode : s.errcode = errCodeBits code) {pos : Nat} (hpos : s.errpos = BitVec.ofNat 32 pos) :
    RunsToError s code pos [] rest := by
  obtain ⟨e, more, hmore⟩ := List.exists_cons_of_ne_nil hacc
  have hturn := (engineTurn_flushErr hst).trans (exec_flushErr_selected _ _ _ hst hmore)
  rcases hleft with ⟨heos, hin⟩ | ⟨heos, m, hin⟩
  · rw [heos] at hturn
    exact ⟨_, .of_turn hturn, rfl, hcode, hpos, hin, by simp⟩
  · rw [heos] at hturn
    refine ⟨_, (EngineRun.of_turn hturn).trans (engineRun_drain rfl hin), rfl, hcode, hpos, rfl, by simp⟩

end

end Sys2Proof.Machine
end

section
/-! PROOF. A whole message on the ACC path (R124, R125, R126, R180, R181, R182). -/

namespace Sys2Proof.Machine

/-! ### Both directions as one loop over the message -/

/-- An ACC step without a result is CAPACITY_EXCEEDED (R123). -/
def orCapacity : Option (List Byte) → Except ErrCode (List Byte)
  | none => .error .capacityExceeded
  | some d => .ok d

/-- What one byte on the ACC path makes of D, or its fault (R124, R125). -/
def accByte (s : State) (d : List Byte) (b : Byte) : Except ErrCode (List Byte) :=
  match s.lat.dir with
  | .encode => orCapacity (accEncStep s.lat.radix.toNat s.params.digitCap d b)
  | .decode =>
    match activeTable s b with
    | none => .error .invalidCharacter
    | some v => orCapacity (accDecStep s.lat.radix.toNat s.params.digitCap d v)

/-- What a message makes of D, its first byte at index p, or the code and index of the fault (R180). -/
def accMessage (s : State) : List Byte → Nat → List Byte → Except (ErrCode × Nat) (List Byte)
  | [], _, d => .ok d
  | b :: m, p, d =>
    match accByte s d b with
    | .error code => .error (code, p)
    | .ok d' => accMessage s m (p + 1) d'

theorem accMessage_encode {s : State} (hdir : s.lat.dir = .encode) (m : List Byte) (p : Nat) (d : List Byte) :
    accMessage s m p d =
      (accEncMessage s.lat.radix.toNat s.params.digitCap m p d).mapError fun i => (.capacityExceeded, i) := by
  induction m generalizing p d with
  | nil => rfl
  | cons b m ih =>
    rw [accMessage, accEncMessage, accByte, hdir]
    cases accEncStep s.lat.radix.toNat s.params.digitCap d b with
    | none => rfl
    | some d' => exact ih (p + 1) d'

theorem accMessage_decode {s : State} (hdir : s.lat.dir = .decode) (m : List Byte) (p : Nat) (d : List Byte) :
    accMessage s m p d = accDecMessage (activeTable s) s.lat.radix.toNat s.params.digitCap m p d := by
  induction m generalizing p d with
  | nil => rfl
  | cons b m ih =>
    rw [accMessage, accDecMessage, accByte, hdir]
    cases activeTable s b with
    | none => rfl
    | some v =>
      dsimp only
      cases accDecStep s.lat.radix.toNat s.params.digitCap d v with
      | none => rfl
      | some d' => exact ih (p + 1) d'

/-- The output or the fault as Convert answers it (R179). -/
def convertedOf : Except (ErrCode × Nat) (List Byte) → Converted
  | .ok out => .ok out
  | .error e => .err e.1 e.2

theorem convertedOf_eq_ok {r : Except (ErrCode × Nat) (List Byte)} {out : List Byte} :
    convertedOf r = .ok out ↔ r = .ok out := by
  cases r <;> simp [convertedOf]

theorem convertedOf_eq_err {r : Except (ErrCode × Nat) (List Byte)} {code : ErrCode} {p : Nat} :
    convertedOf r = .err code p ↔ r = .error (code, p) := by
  cases r <;> simp [convertedOf, Prod.ext_iff]

/-- Convert on the ACC path, by the one loop (R180). -/
theorem convert_acc {s : State} (hpath : s.lat.path = .acc) (hd : s.d = []) (m : List Byte) :
    convert s m = convertedOf ((accMessage s m 0 s.d).map fun d => accOutput { s with d := d }) := by
  rw [hd]
  cases hdir : s.lat.dir with
  | encode =>
    rw [accMessage_encode hdir]
    cases hm : accEncMessage s.lat.radix.toNat s.params.digitCap m 0 [] with
    | error p => simp [convert, hpath, hdir, hm, convertedOf, Except.mapError, Except.map]
    | ok d => simp [convert, hpath, hdir, hm, convertedOf, Except.mapError, Except.map, accOutput, activeAlphabet]
  | decode =>
    rw [accMessage_decode hdir]
    cases hm : accDecMessage (activeTable s) s.lat.radix.toNat s.params.digitCap m 0 [] with
    | error e => simp [convert, hpath, hdir, hm, convertedOf, Except.map]
    | ok d => simp [convert, hpath, hdir, hm, convertedOf, Except.map, accOutput]

/-! ### One byte -/

/-- ACC_RUN on the ACC path with the rest m of a message and its End offered, m's first byte at index p. -/
structure AccRunning (s : State) (m : List Byte) (p : Nat) (rest : List InToken) : Prop where
  stage : s.stage = .accRun
  path : s.lat.path = .acc
  eoseen : s.eoseen = false
  incnt : s.incnt = BitVec.ofNat 32 p
  inOffer : s.inOffer = m.map InToken.byte ++ .eos :: rest

section
variable {s : State} {b : Byte} {m : List Byte} {p : Nat} {rest : List InToken}

/-- A byte's turn: an invalid character faults, else it ends as the ACC step does (R124, R125). -/
theorem AccRunning.byte_cases (h : AccRunning s (b :: m) p rest) :
    (accByte s s.d b = .error .invalidCharacter
        ∧ engineTurn s = .next (raiseAccFault .invalidCharacter s.incnt.toNat (takeByte s)))
      ∨ ∃ d', accByte s s.d b = orCapacity d'
        ∧ engineTurn s = .next (finishAccStep d' s.incnt.toNat (takeByte s)) := by
  obtain ⟨hst, hpath, -, -, hin⟩ := h
  cases hdir : s.lat.dir with
  | encode => exact .inr ⟨_, by rw [accByte, hdir], engineTurn_accEncByte hst hdir hpath hin⟩
  | decode =>
    rw [engineTurn_accDecByte hst hdir hpath hin, accByte, hdir]
    cases hv : activeTable s b with
    | none => exact .inl ⟨rfl, by rw [accDecByteEffect_none hv]⟩
    | some v => exact .inr ⟨_, rfl, by rw [accDecByteEffect_some hv]⟩

/-- A byte that fits: D as `accByte` says, the byte taken and counted, CARRY a free value (R46). -/
theorem AccRunning.byte_ok (h : AccRunning s (b :: m) p rest) {d : List Byte} (hd : accByte s s.d b = .ok d) :
    ∃ t : State, engineTurn s = .next t
      ∧ t = { s with
          inOffer := m.map InToken.byte ++ .eos :: rest, incnt := s.incnt + 1, d := d, carry := t.carry
          draws := t.draws } := by
  rcases h.byte_cases with ⟨hbad, -⟩ | ⟨d', hfit, hturn⟩
  · exact absurd (hd.symm.trans hbad) (by simp)
  · cases d' with
    | none => exact absurd (hd.symm.trans hfit) (by simp [orCapacity])
    | some d' =>
      obtain rfl : d = d' := Except.ok.inj (hd.symm.trans hfit)
      rw [hturn, finishAccStep, takeByte_eq h.inOffer]
      exact ⟨_, rfl, rfl⟩

/-- A byte that faults: the code of `accByte` at the byte's index, the byte taken, D lost (R214). -/
theorem AccRunning.byte_error (h : AccRunning s (b :: m) p rest) {code : ErrCode}
    (hd : accByte s s.d b = .error code) :
    ∃ t : State, engineTurn s = .next t
      ∧ t = { s with
          inOffer := m.map InToken.byte ++ .eos :: rest, incnt := s.incnt + 1, d := t.d, carry := t.carry
          draws := t.draws, errcode := errCodeBits code, errpos := BitVec.ofNat 32 p, stage := .flushErr } := by
  rcases h.byte_cases with ⟨hbad, hturn⟩ | ⟨d', hfit, hturn⟩
  · obtain rfl : code = _ := Except.error.inj (hd.symm.trans hbad)
    rw [hturn, raiseAccFault_eq, takeByte_eq h.inOffer, h.incnt]
    exact ⟨_, rfl, rfl⟩
  · cases d' with
    | none =>
      obtain rfl : code = _ := Except.error.inj (hd.symm.trans hfit)
      rw [hturn, finishAccStep, raiseAccFault_eq, takeByte_eq h.inOffer, h.incnt]
      exact ⟨_, rfl, rfl⟩
    | some d => exact absurd (hd.symm.trans hfit) (by simp [orCapacity])

end

/-! ### The whole message -/

section
variable {s : State} {m : List Byte} {p : Nat} {rest : List InToken}

/-- After a byte that fits, the engine is in ACC_RUN again with the rest of the message. -/
theorem AccRunning.next {b : Byte} (h : AccRunning s (b :: m) p rest) {d : List Byte} (hd : accByte s s.d b = .ok d) :
    ∃ t : State, EngineRun s t ∧ AccRunning t m (p + 1) rest ∧ t.d = d ∧ t.incnt = s.incnt + BitVec.ofNat 32 1
      ∧ t.outcnt = s.outcnt ∧ t.outTokens = s.outTokens ∧ t.outAccept = s.outAccept := by
  obtain ⟨t, hturn, ht⟩ := h.byte_ok hd
  refine ⟨t, .of_turn hturn, ?_, ?_⟩
  · rw [ht]
    exact ⟨h.stage, h.path, h.eoseen, by rw [h.incnt, BitVec.ofNat_add]; rfl, rfl⟩
  · rw [ht]
    exact ⟨rfl, rfl, rfl, rfl, rfl⟩

theorem accByte_of_keeps {t : State} (h : EngineKeeps s t) : accByte t = accByte s := by
  funext d b
  rw [accByte, accByte, h.lat, h.params, h.activeTable]

theorem accMessage_of_keeps {t : State} (h : EngineKeeps s t) (m : List Byte) (p : Nat) (d : List Byte) :
    accMessage t m p d = accMessage s m p d := by
  induction m generalizing p d with
  | nil => rfl
  | cons b m ih =>
    rw [accMessage, accMessage, accByte_of_keeps h]
    cases accByte s d b with
    | error code => rfl
    | ok d' => exact ih (p + 1) d'

theorem accOutput_of_keeps {t : State} (h : EngineKeeps s t) (d : List Byte) :
    accOutput { t with d := d } = accOutput { s with d := d } := by
  have halpha : activeAlphabet { t with d := d } = activeAlphabet { s with d := d } := h.activeAlphabet
  rw [accOutput, accOutput, halpha]
  simp only [h.lat]

/-- A message that fits ends in DONE with the digits of D delivered (R126, R181). -/
theorem AccRunning.runsToDone {d : List Byte} (hm : accMessage s m p s.d = .ok d) (hacc : d.length < s.outAccept.length)
    (h : AccRunning s m p rest) : RunsToDone s m.length (accOutput { s with d := d }) rest := by
  induction m generalizing s p with
  | nil =>
    obtain rfl : s.d = d := Except.ok.inj hm
    have hturn := engineTurn_accEnd h.stage h.path h.inOffer
    rw [accEndEffect_eq h.inOffer] at hturn
    have hend := runsToDone_of_emit (s := { s with inOffer := rest, eoseen := true, oq := accOutput s, stage := .emit })
      rfl rfl (by simpa [accOutput_length] using hacc)
    exact RunsToDone.of_run (first := []) (.of_turn hturn) (by simp) (by simp) (by simp) hend
  | cons b m ih =>
    rw [accMessage] at hm
    cases hb : accByte s s.d b with
    | error code => rw [hb] at hm; cases hm
    | ok d' =>
      rw [hb] at hm
      obtain ⟨t, hrun, hnext, htd, hincnt, houtcnt, htok, hoa⟩ := h.next hb
      have hkeep := hrun.keeps
      have hrest := ih (by rw [accMessage_of_keeps hkeep, htd]; exact hm) (by rw [hoa]; exact hacc) hnext
      rw [accOutput_of_keeps hkeep] at hrest
      rw [List.length_cons, Nat.add_comm]
      exact RunsToDone.of_run (first := []) hrun hincnt (by simpa using houtcnt) (by simpa using htok) hrest

/-- A message that faults ends in ERROR with the fault, and nothing but End(err) delivered (R181, R182). -/
theorem AccRunning.runsToError {code : ErrCode} {pos : Nat} (hm : accMessage s m p s.d = .error (code, pos))
    (hacc : s.outAccept ≠ []) (h : AccRunning s m p rest) : RunsToError s code pos [] rest := by
  induction m generalizing s p with
  | nil => cases hm
  | cons b m ih =>
    rw [accMessage] at hm
    cases hb : accByte s s.d b with
    | error code' =>
      rw [hb] at hm
      obtain ⟨rfl, rfl⟩ := Prod.mk.inj (Except.error.inj hm)
      obtain ⟨t, hturn, ht⟩ := h.byte_error hb
      exact RunsToError.of_run (first := []) (.of_turn hturn) (by rw [ht]; simp)
        (runsToError_of_flushErr (by rw [ht]) (by rw [ht]; exact hacc)
          (.inr ⟨by rw [ht]; exact h.eoseen, m, by rw [ht]⟩) (by rw [ht]) (by rw [ht]))
    | ok d' =>
      rw [hb] at hm
      obtain ⟨t, hrun, hnext, htd, -, -, htok, hoa⟩ := h.next hb
      exact RunsToError.of_run (first := []) hrun (by simpa using htok)
        (ih (by rw [accMessage_of_keeps hrun.keeps, htd]; exact hm) (by rw [hoa]; exact hacc) hnext)

end

/-! ### From the state START leaves -/

theorem Begun.accRunning {s : State} {m : List Byte} {rest : List InToken} (h : Begun s m rest)
    (hpath : s.lat.path = .acc) : AccRunning s m 0 rest ∧ s.d = [] := by
  obtain ⟨-, hd, -, -, -, heos, hincnt, -, hst, hin⟩ := h
  rw [hpath] at hst
  exact ⟨⟨hst, hpath, heos, hincnt, hin⟩, hd⟩

theorem Begun.agenda {s : State} {m : List Byte} {rest : List InToken} (h : Begun s m rest) : s.agenda = [] := by
  obtain ⟨ha, -⟩ := h
  exact ha

theorem RunsToDone.endsOk {s : State} {m out : List Byte} {rest : List InToken} (hb : Begun s m rest)
    (h : RunsToDone s m.length out rest) : ∃ t, Reaches s t ∧ EndsOk s t m out rest := by
  obtain ⟨t, hrun, hst, htok, hoffer, hincnt, houtcnt⟩ := h
  obtain ⟨ha, -, -, -, -, -, hin0, hout0, -⟩ := hb
  rw [hin0, zero_add] at hincnt
  rw [hout0, zero_add] at houtcnt
  exact ⟨t, hrun.reaches ha, hst, htok, hoffer, hincnt, houtcnt⟩

theorem RunsToError.endsErr {s : State} {m : List Byte} {code : ErrCode} {pos : Nat} {before : List Byte}
    {rest : List InToken} (hb : Begun s m rest) (h : RunsToError s code pos before rest) :
    ∃ t, Reaches s t ∧ EndsErr s t code pos before rest := by
  obtain ⟨t, hrun, hend⟩ := h
  exact ⟨t, hrun.reaches hb.agenda, hend⟩

end Sys2Proof.Machine

section
open Sys2Proof Sys2Proof.Machine

/-- Settles O58: by induction on the message, one byte of ACC_RUN at a time, then EMIT or FLUSH_ERR. -/
theorem accMessageEndsAsConverted : Obligations.AccMessageEndsAsConverted := by
  intro s m rest hb hlat
  obtain ⟨hpath, -⟩ := hlat
  obtain ⟨hrun, hd⟩ := hb.accRunning hpath
  rw [convert_acc hpath hd]
  refine ⟨fun out hout hacc => ?_, fun code pos herr hacc => ?_⟩
  · rw [convertedOf_eq_ok] at hout
    cases hm : accMessage s m 0 s.d with
    | error e => rw [hm] at hout; cases hout
    | ok d =>
      rw [hm] at hout
      obtain rfl := Except.ok.inj hout
      rw [accOutput_length] at hacc
      exact (hrun.runsToDone hm hacc).endsOk hb
  · rw [convertedOf_eq_err] at herr
    cases hm : accMessage s m 0 s.d with
    | ok d => rw [hm] at herr; cases herr
    | error e =>
      rw [hm] at herr
      obtain rfl := Except.error.inj herr
      exact (hrun.runsToError hm hacc).endsErr hb

end
end

section
/-! PROOF. Decoding from another message index moves the index of a fault and nothing else (R144, R170, R171, R192),
and a message is the conversion of its windows (R167, R168). -/

namespace Sys2Proof.Machine

/-! ### The index of a fault -/

/-- A result whose fault's index counts from q. -/
def fromIndex {α : Type} (q : Nat) (r : Except Nat α) : Except Nat α := r.mapError (q + ·)

@[simp] theorem fromIndex_ok {α : Type} (q : Nat) (x : α) : fromIndex q (.ok x) = .ok x := rfl

@[simp] theorem fromIndex_error {α : Type} (q p : Nat) : fromIndex q (.error p : Except Nat α) = .error (q + p) := rfl

@[simp] theorem fromIndex_zero {α : Type} (r : Except Nat α) : fromIndex 0 r = r := by
  cases r <;> simp

theorem fromIndex_fromIndex {α : Type} (q q' : Nat) (r : Except Nat α) :
    fromIndex q (fromIndex q' r) = fromIndex (q + q') r := by
  cases r <;> simp [Nat.add_assoc]

theorem fromIndex_joinDecoded (q : Nat) (r r' : Except Nat (List Byte)) :
    fromIndex q (joinDecoded r r') = joinDecoded (fromIndex q r) (fromIndex q r') := by
  cases r <;> cases r' <;> simp

theorem fromIndex_eq_ok {α : Type} {q : Nat} {r : Except Nat α} {x : α} : fromIndex q r = .ok x ↔ r = .ok x := by
  cases r <;> simp

theorem packAccumulate_add (table : Byte → Option Nat) (k : Nat) (c : List Byte) (q p a : Nat) :
    packAccumulate table k c (q + p) a = fromIndex q (packAccumulate table k c p a) := by
  induction c generalizing p a with
  | nil => rfl
  | cons x c ih =>
    rw [packAccumulate, packAccumulate]
    cases table x with
    | none => rfl
    | some v => exact ih (p + 1) _

theorem packDecGroup_add (table : Byte → Option Nat) (k nb : Nat) (c : List Byte) (q p : Nat) :
    packDecGroup table k nb c (q + p) = fromIndex q (packDecGroup table k nb c p) := by
  rw [packDecGroup, packDecGroup, packAccumulate_add]
  cases packAccumulate table k c p 0 <;> rfl

theorem b64DecPad_add (c : List Byte) (q p : Nat) : b64DecPad c (q + p) = fromIndex q (b64DecPad c p) := by
  rw [b64DecPad, b64DecPad]
  cases (List.range 4).find? (padOffends c) with
  | some i => simp [Nat.add_assoc]
  | none =>
    dsimp only
    split_ifs <;> rfl

section
variable (lat : Latches) (table : Byte → Option Nat)

theorem decGroups_add (g : Nat) (x : List Byte) (q p : Nat) :
    decGroups lat table g x (q + p) = fromIndex q (decGroups lat table g x p) := by
  induction g generalizing x p with
  | zero => rfl
  | succ g ih => rw [decGroups_succ, decGroups_succ, packDecGroup_add, Nat.add_assoc, ih, fromIndex_joinDecoded]

theorem decBody_add (x : List Byte) (q p : Nat) : decBody lat table x (q + p) = fromIndex q (decBody lat table x p) :=
  decGroups_add lat table _ x q p

theorem decLast_add (c : List Byte) (q p : Nat) :
    decLast lat table c (q + p) = fromIndex q (decLast lat table c p) := by
  rw [decLast, decLast, b64DecPad_add, packDecGroup_add]
  split_ifs <;> rfl

theorem decFinal_add (x : List Byte) (q p : Nat) :
    decFinal lat table x (q + p) = fromIndex q (decFinal lat table x p) := by
  by_cases h : x.length / lat.nc * lat.nc = 0
  · rw [decFinal_of_no_group h, decFinal_of_no_group h, fromIndex_ok]
  · rw [decFinal_of_group h, decFinal_of_group h, decBody_add, Nat.add_assoc, decLast_add, fromIndex_joinDecoded]

theorem decBody_from (x : List Byte) (p : Nat) : decBody lat table x p = fromIndex p (decBody lat table x 0) :=
  decBody_add lat table x p 0

theorem decFinal_from (x : List Byte) (p : Nat) : decFinal lat table x p = fromIndex p (decFinal lat table x 0) :=
  decFinal_add lat table x p 0

/-- A fault of DEC_BODY lies in its characters. -/
theorem decBody_error_lt {x : List Byte} {i : Nat} (h : decBody lat table x 0 = .error i) : i < x.length := by
  obtain ⟨herror, hok⟩ := decBody_isDecoding lat table x 0
  have hle := Nat.div_mul_le_self x.length lat.nc
  by_cases hall : ∀ j, j < x.length / lat.nc * lat.nc → table (x.getD j 0) ≠ none
  · obtain ⟨out, hout, -⟩ := hok hall
    cases h.symm.trans hout
  · push Not at hall
    have hleast := Nat.find_spec hall
    obtain ⟨hlt, hnone⟩ := hleast
    have hfirst := herror _ hlt hnone fun j hj hjn => Nat.find_min hall hj ⟨hj.trans hlt, hjn⟩
    have hi := Except.error.inj (h.symm.trans hfirst)
    omega

end

/-! ### Windows -/

/-- How far a full window moves WBASE: a decoding window leaves its last group for the next (R167). -/
def windowStep (lat : Latches) : Nat :=
  match lat.dir with
  | .encode => lat.w
  | .decode => lat.w - lat.nc

theorem windowStep_le (lat : Latches) : windowStep lat ≤ lat.w := by
  cases hdir : lat.dir <;> simp [windowStep, hdir]

/-- The conversion of what a full window gives up, its indices counted from its start (R167). -/
def packBody (s : State) (x : List Byte) : Except Nat (List Byte) :=
  match s.lat.dir with
  | .encode => .ok (encBody s.lat (activeAlphabet s) x)
  | .decode => decBody s.lat (activeTable s) x 0

/-- The conversion of a last window, or of a whole message, its indices counted from its start (R168, R180). -/
def packFinal (s : State) (x : List Byte) : Except Nat (List Byte) :=
  match s.lat.dir with
  | .encode => .ok (encFinal s.lat (activeAlphabet s) x)
  | .decode => decFinal s.lat (activeTable s) x 0

theorem packFinal_of_keeps {s t : State} (h : EngineKeeps s t) : packFinal t = packFinal s := by
  funext x
  rw [packFinal, packFinal, h.lat, h.activeAlphabet, h.activeTable]

theorem convert_pack {s : State} (hpath : s.lat.path = .pack) (m : List Byte) :
    convert s m = convertedOf ((packFinal s m).mapError fun p => (.invalidCharacter, p)) := by
  cases hdir : s.lat.dir with
  | encode => simp [convert, packFinal, hpath, hdir, convertedOf, Except.mapError]
  | decode =>
    cases hm : decFinal s.lat (activeTable s) m 0 <;>
      simp [convert, packFinal, hpath, hdir, hm, convertedOf, Except.mapError]

theorem packFinal_of_convert_ok {s : State} (hpath : s.lat.path = .pack) {m out : List Byte}
    (h : convert s m = .ok out) : packFinal s m = .ok out := by
  rw [convert_pack hpath, convertedOf_eq_ok] at h
  cases hm : packFinal s m with
  | ok y => rw [hm] at h; exact congrArg _ (Except.ok.inj h)
  | error p => rw [hm] at h; cases h

theorem packFinal_of_convert_err {s : State} (hpath : s.lat.path = .pack) {m : List Byte} {code : ErrCode} {p : Nat}
    (h : convert s m = .err code p) : code = .invalidCharacter ∧ packFinal s m = .error p := by
  rw [convert_pack hpath, convertedOf_eq_err] at h
  cases hm : packFinal s m with
  | ok y => rw [hm] at h; cases h
  | error q =>
    rw [hm] at h
    obtain ⟨rfl, rfl⟩ := Prod.mk.inj (Except.error.inj h)
    exact ⟨rfl, rfl⟩

theorem finalWindow_from (s : State) : finalWindow s = fromIndex s.wbase.toNat (packFinal s s.wb) := by
  cases hdir : s.lat.dir with
  | encode => rw [finalWindow_encode hdir, packFinal, hdir]; rfl
  | decode => rw [finalWindow_decode hdir, decFinal_from, packFinal, hdir]

section
variable {s : State} {n : Nat} (h : PackLatchesFor s.lat n)
include h

theorem PackLatchesFor.windowStep_pos : 0 < windowStep s.lat := by
  cases hdir : s.lat.dir with
  | encode => simpa only [windowStep, hdir] using h.w_pos
  | decode =>
    have := h.nc_lt_w hdir
    simp only [windowStep, hdir]
    omega

theorem PackLatchesFor.nc_dvd_windowStep (hdir : s.lat.dir = .decode) : s.lat.nc ∣ windowStep s.lat := by
  rw [windowStep, hdir, h.w_decode hdir]
  exact Nat.dvd_sub (Dvd.intro_left n rfl) (dvd_refl _)

/-- A message that fills a window: the window's own conversion, then the rest from where it ends (R167, R172). -/
theorem packFinal_of_window {x : List Byte} (hx : s.lat.w ≤ x.length) :
    packFinal s x = joinDecoded (packBody s (x.take (windowStep s.lat)))
      (fromIndex (windowStep s.lat) (packFinal s (x.drop (windowStep s.lat)))) := by
  have hle := windowStep_le s.lat
  have hlen : (x.take (windowStep s.lat)).length = windowStep s.lat := List.length_take_of_le (hle.trans hx)
  conv_lhs => rw [← List.take_append_drop (windowStep s.lat) x]
  cases hdir : s.lat.dir with
  | encode =>
    have hdvd : s.lat.nb ∣ (x.take (windowStep s.lat)).length := by
      rw [hlen, windowStep, hdir, h.w_encode hdir]
      exact Dvd.intro_left n rfl
    simp only [packFinal, packBody, hdir, fromIndex_ok, joinDecoded_ok_ok]
    rw [encFinal_append _ h.nb_pos hdvd]
  | decode =>
    have hdvd : s.lat.nc ∣ (x.take (windowStep s.lat)).length := by
      rw [hlen]
      exact h.nc_dvd_windowStep hdir
    have hrest : s.lat.nc ≤ (x.drop (windowStep s.lat)).length := by
      have := h.nc_lt_w hdir
      have hstep : windowStep s.lat = s.lat.w - s.lat.nc := by rw [windowStep, hdir]
      rw [List.length_drop, hstep]
      omega
    simp only [packFinal, packBody, hdir]
    rw [decFinal_append _ h.nc_pos hdvd hrest, Nat.zero_add, hlen, decFinal_from]

/-- A decoding window gives no more bytes than it has characters. -/
theorem packBody_length_le (hdir : s.lat.dir = .decode) {x out : List Byte} (hok : packBody s x = .ok out) :
    out.length ≤ x.length := by
  rw [packBody, hdir] at hok
  rw [decBody_ok_length hok]
  exact (Nat.mul_le_mul_left _ h.nb_le_nc).trans (Nat.div_mul_le_self _ _)

end

end Sys2Proof.Machine
end

section
/-! PROOF. A whole message on the PACK path, whatever the window (R167, R168, R173, R181, R182). -/

namespace Sys2Proof.Machine

/-! ### One token of FILL -/

/-- FILL with the rest m of a message and its End offered, and room in the window. -/
structure Filling (s : State) (m : List Byte) (rest : List InToken) : Prop where
  stage : s.stage = .fill
  path : s.lat.path = .pack
  eoseen : s.eoseen = false
  room : s.wb.length < s.lat.w
  inOffer : s.inOffer = m.map InToken.byte ++ .eos :: rest

section
variable {s : State} {b : Byte} {m : List Byte} {rest : List InToken}

theorem Filling.byte_turn (h : Filling s (b :: m) rest) : engineTurn s = .next (fillByteEffect b s) :=
  engineTurn_fillByte h.stage h.path h.inOffer

/-- A byte that does not fill the window (R167). -/
theorem Filling.byte_kept (h : Filling s (b :: m) rest) (hw : s.wb.length + 1 ≠ s.lat.w) :
    engineTurn s = .next { s with
      inOffer := m.map InToken.byte ++ .eos :: rest, incnt := s.incnt + 1, wb := s.wb ++ [b] } := by
  rw [h.byte_turn, fillByteEffect_of_not_full hw, takeByte_eq h.inOffer]
  rfl

/-- A byte that fills a window whose conversion does not fault (R167). -/
theorem Filling.window_ok (h : Filling s (b :: m) rest) (hw : s.wb.length + 1 = s.lat.w) {out : List Byte}
    (hout : packBody s ((s.wb ++ [b]).take (windowStep s.lat)) = .ok out) :
    ∃ t : State, engineTurn s = .next t
      ∧ t = { s with
          inOffer := m.map InToken.byte ++ .eos :: rest, incnt := s.incnt + 1, oq := out
          wbase := s.wbase + BitVec.ofNat 32 (windowStep s.lat), wb := (s.wb ++ [b]).drop (windowStep s.lat)
          stage := .emit, pacc := t.pacc, draws := t.draws } := by
  rw [h.byte_turn]
  cases hdir : s.lat.dir with
  | encode =>
    have hstep : windowStep s.lat = (s.wb ++ [b]).length := by simp [windowStep, hdir, hw]
    rw [hstep, List.take_length, packBody, hdir] at hout
    obtain rfl := Except.ok.inj hout
    rw [fillByteEffect_of_full_encode hw hdir, takeByte_eq h.inOffer, hstep, List.drop_length, List.length_append,
      List.length_singleton, hw]
    exact ⟨_, rfl, rfl⟩
  | decode =>
    have hstep : windowStep s.lat = s.lat.w - s.lat.nc := by rw [windowStep, hdir]
    rw [hstep, packBody, hdir] at hout
    have hbody : decBody s.lat (activeTable s) ((s.wb ++ [b]).take (s.lat.w - s.lat.nc)) s.wbase.toNat = .ok out := by
      rw [decBody_from, fromIndex_eq_ok]
      exact hout
    rw [fillByteEffect_of_full_decode hw hdir, fullDecodeWindow_of_ok (s := takeByte s) hbody, takeByte_eq h.inOffer,
      hstep]
    exact ⟨_, rfl, rfl⟩

/-- A byte that fills a window whose conversion faults: the index counts from WBASE (R167, R214). -/
theorem Filling.window_error (h : Filling s (b :: m) rest) (hw : s.wb.length + 1 = s.lat.w) {i : Nat}
    (herr : packBody s ((s.wb ++ [b]).take (windowStep s.lat)) = .error i) :
    ∃ t : State, engineTurn s = .next t
      ∧ t = { s with
          inOffer := m.map InToken.byte ++ .eos :: rest, incnt := s.incnt + 1, errcode := 1
          errpos := BitVec.ofNat 32 (s.wbase.toNat + i), stage := .flushErr, pacc := t.pacc, draws := t.draws } := by
  rw [h.byte_turn]
  cases hdir : s.lat.dir with
  | encode => rw [packBody, hdir] at herr; cases herr
  | decode =>
    have hstep : windowStep s.lat = s.lat.w - s.lat.nc := by rw [windowStep, hdir]
    rw [hstep, packBody, hdir] at herr
    have hbody : decBody s.lat (activeTable s) ((s.wb ++ [b]).take (s.lat.w - s.lat.nc)) s.wbase.toNat =
        .error (s.wbase.toNat + i) := by
      rw [decBody_from]
      exact congrArg _ herr
    rw [fillByteEffect_of_full_decode hw hdir, fullDecodeWindow_of_error (s := takeByte s) hbody,
      takeByte_eq h.inOffer]
    exact ⟨_, rfl, rfl⟩

/-- End where the last window's conversion does not fault (R168). -/
theorem Filling.end_ok (h : Filling s [] rest) {out : List Byte} (hout : packFinal s s.wb = .ok out) :
    ∃ t : State, engineTurn s = .next t
      ∧ t = { s with
          inOffer := rest, eoseen := true, oq := out, wb := [], stage := .emit, pacc := t.pacc
          draws := t.draws } := by
  have hin : s.inOffer = .eos :: rest := h.inOffer
  rw [engineTurn_fillEnd h.stage h.path hin, ← exec_fillEnd_selected s.lat.dir s.lat.codec h.stage h.path hin]
  refine exec_fillEnd_of_ok _ _ h.stage h.path hin ?_
  rw [finalWindow_from, hout, fromIndex_ok]

/-- End where the last window's conversion faults (R168, R214). -/
theorem Filling.end_error (h : Filling s [] rest) {i : Nat} (herr : packFinal s s.wb = .error i) :
    ∃ t : State, engineTurn s = .next t
      ∧ t = { s with
          inOffer := rest, eoseen := true, errcode := 1, errpos := BitVec.ofNat 32 (s.wbase.toNat + i)
          stage := .flushErr, pacc := t.pacc, draws := t.draws } := by
  have hin : s.inOffer = .eos :: rest := h.inOffer
  rw [engineTurn_fillEnd h.stage h.path hin, ← exec_fillEnd_selected s.lat.dir s.lat.codec h.stage h.path hin]
  refine exec_fillEnd_of_error _ _ h.stage h.path hin ?_
  rw [finalWindow_from, herr, fromIndex_error]

/-! ### One byte, up to the next FILL -/

/-- The engine in FILL again after one byte, having delivered out: what the run from s to t has changed. -/
structure TookByte (s t : State) (out : List Byte) (m : List Byte) (rest : List InToken) : Prop where
  run : EngineRun s t
  filling : Filling t m rest
  incnt : t.incnt = s.incnt + BitVec.ofNat 32 1
  outcnt : t.outcnt = s.outcnt + BitVec.ofNat 32 out.length
  outTokens : t.outTokens = s.outTokens ++ out.map OutToken.byte
  outAccept : t.outAccept = s.outAccept.drop out.length

theorem Filling.take_kept (h : Filling s (b :: m) rest) (hw : s.wb.length + 1 ≠ s.lat.w) :
    ∃ t, TookByte s t [] m rest ∧ t.wb = s.wb ++ [b] ∧ t.wbase = s.wbase := by
  have hroom : (s.wb ++ [b]).length < s.lat.w := by
    have := h.room
    rw [List.length_append, List.length_singleton]
    omega
  exact ⟨_, ⟨.of_turn (h.byte_kept hw), ⟨h.stage, h.path, h.eoseen, hroom, rfl⟩, rfl, by simp, by simp, by simp⟩,
    rfl, rfl⟩

/-- A window that converts is delivered whole before the next byte is taken (R164, R173). -/
theorem Filling.take_window (h : Filling s (b :: m) rest) (hw : s.wb.length + 1 = s.lat.w)
    (hpos : 0 < windowStep s.lat) {out : List Byte}
    (hout : packBody s ((s.wb ++ [b]).take (windowStep s.lat)) = .ok out) (hacc : out.length ≤ s.outAccept.length) :
    ∃ t, TookByte s t out m rest ∧ t.wb = (s.wb ++ [b]).drop (windowStep s.lat)
      ∧ t.wbase = s.wbase + BitVec.ofNat 32 (windowStep s.lat) := by
  obtain ⟨u, hturn, hu⟩ := h.window_ok hw hout
  have hoq : u.oq = out := by rw [hu]
  obtain ⟨failed, hrun⟩ := engineRun_refill (s := u) (by rw [hu]) (by rw [hu]; exact h.eoseen)
    (by rw [hoq, hu]; exact hacc)
  rw [hoq] at hrun
  have hlat : u.lat = s.lat := by rw [hu]
  refine ⟨_, ⟨(EngineRun.of_turn hturn).trans hrun, ⟨rfl, ?_, ?_, ?_, ?_⟩, ?_, ?_, ?_, ?_⟩, ?_, ?_⟩
  · exact (congrArg Latches.path hlat).trans h.path
  · dsimp only; rw [hu]; exact h.eoseen
  · dsimp only
    rw [hlat, hu]
    simp only [List.length_drop, List.length_append, List.length_singleton]
    omega
  all_goals dsimp only; rw [hu]
  rfl

end

/-! ### A message that does not fault -/

/-- The bytes of the window and the rest of the message, joined as the next byte is taken. -/
theorem append_cons_eq (x : List Byte) (b : Byte) (m : List Byte) : x ++ b :: m = x ++ [b] ++ m := by simp

/-- A full window and the rest, at the window's end. -/
theorem take_append_window {k : Nat} {x : List Byte} (hk : k ≤ x.length) (m : List Byte) :
    (x ++ m).take k = x.take k ∧ (x ++ m).drop k = x.drop k ++ m :=
  ⟨List.take_append_of_le_length hk, List.drop_append_of_le_length hk⟩

/-- A conversion that fills its window and goes on: the window's, then that of the rest (R167). -/
theorem packFinal_of_full {s : State} {n : Nat} (hlat : PackLatchesFor s.lat n) {x : List Byte}
    (hx : x.length = s.lat.w) (m : List Byte) :
    packFinal s (x ++ m) = joinDecoded (packBody s (x.take (windowStep s.lat)))
      (fromIndex (windowStep s.lat) (packFinal s (x.drop (windowStep s.lat) ++ m))) := by
  obtain ⟨htake, hdrop⟩ := take_append_window ((windowStep_le s.lat).trans hx.ge) m
  rw [packFinal_of_window hlat (by rw [List.length_append]; omega), htake, hdrop]

theorem Filling.runsToDone {s : State} {n : Nat} (hlat : PackLatchesFor s.lat n) {m out : List Byte}
    {rest : List InToken} (hout : packFinal s (s.wb ++ m) = .ok out) (hacc : out.length < s.outAccept.length)
    (h : Filling s m rest) : RunsToDone s m.length out rest := by
  induction m generalizing s out with
  | nil =>
    rw [List.append_nil] at hout
    obtain ⟨t, hturn, ht⟩ := h.end_ok hout
    have hend := runsToDone_of_emit (s := t) (by rw [ht]) (by rw [ht]) (by rw [ht]; exact hacc)
    have hoq : t.oq = out := by rw [ht]
    have hin : t.inOffer = rest := by rw [ht]
    rw [hoq, hin] at hend
    exact RunsToDone.of_run (first := []) (.of_turn hturn) (by rw [ht]; simp) (by rw [ht]; simp) (by rw [ht]; simp) hend
  | cons b m ih =>
    rw [append_cons_eq] at hout
    rw [List.length_cons, Nat.add_comm]
    by_cases hw : s.wb.length + 1 = s.lat.w
    · have hlen : (s.wb ++ [b]).length = s.lat.w := by rw [List.length_append, List.length_singleton, hw]
      rw [packFinal_of_full hlat hlen, joinDecoded_eq_ok] at hout
      obtain ⟨first, more, hfirst, hmore, rfl⟩ := hout
      rw [fromIndex_eq_ok] at hmore
      rw [List.length_append] at hacc
      obtain ⟨t, htook, hwb, -⟩ := h.take_window hw hlat.windowStep_pos hfirst (by omega)
      have hkeep := htook.run.keeps
      refine RunsToDone.of_run htook.run htook.incnt htook.outcnt htook.outTokens (ih ?_ ?_ ?_ htook.filling)
      · rwa [hkeep.lat]
      · rwa [packFinal_of_keeps hkeep, hwb]
      · rw [htook.outAccept, List.length_drop]
        omega
    · obtain ⟨t, htook, hwb, -⟩ := h.take_kept hw
      have hkeep := htook.run.keeps
      refine RunsToDone.of_run (first := []) htook.run htook.incnt htook.outcnt htook.outTokens
        (ih ?_ ?_ ?_ htook.filling)
      · rwa [hkeep.lat]
      · rwa [packFinal_of_keeps hkeep, hwb]
      · rwa [htook.outAccept]

/-! ### A decoding that faults -/

/-- The windows completed before the character at index i of a message of len characters (R182). -/
def windowsBefore (lat : Latches) (i len : Nat) : Nat :=
  min (i / windowStep lat) (if len < lat.w then 0 else (len - lat.nc) / windowStep lat)

section
variable {lat : Latches} {n : Nat} (hlat : PackLatchesFor lat n) (hdir : lat.dir = .decode)
include hlat hdir

theorem PackLatchesFor.windowStep_decode : windowStep lat + lat.nc = lat.w := by
  have := hlat.nc_lt_w hdir
  rw [windowStep, hdir]
  dsimp only
  omega

/-- A completed window counts once. -/
theorem windowsBefore_add {len : Nat} (hlen : lat.w ≤ len) (i : Nat) :
    windowsBefore lat (windowStep lat + i) len = windowsBefore lat i (len - windowStep lat) + 1 := by
  have hstep := hlat.windowStep_decode hdir
  have hpos : 0 < windowStep lat := by
    have := hlat.nc_lt_w hdir
    omega
  have hsub : len - lat.nc = windowStep lat + (len - windowStep lat - lat.nc) := by omega
  rw [windowsBefore, windowsBefore, if_neg (by omega), hsub, Nat.add_div_left _ hpos, Nat.add_div_left _ hpos]
  split_ifs with hshort
  · rw [Nat.div_eq_of_lt (a := len - windowStep lat - lat.nc) (by omega)]
    omega
  · omega

end

/-- The bytes delivered before a fault at index i of the characters y (R182). -/
def DeliveredBefore (s : State) (i : Nat) (y before : List Byte) : Prop :=
  decBody s.lat (activeTable s) (y.take (windowStep s.lat * windowsBefore s.lat i y.length)) 0 = .ok before

theorem DeliveredBefore.of_keeps {s t : State} (h : EngineKeeps s t) {i : Nat} {y before : List Byte}
    (hb : DeliveredBefore t i y before) : DeliveredBefore s i y before := by
  rw [DeliveredBefore, h.lat, h.activeTable] at hb
  exact hb

section
variable {s : State} {n : Nat} (hlat : PackLatchesFor s.lat n) (hdir : s.lat.dir = .decode) {i : Nat}
include hlat

theorem deliveredBefore_nil {y : List Byte} (h0 : windowsBefore s.lat i y.length = 0) : DeliveredBefore s i y [] := by
  rw [DeliveredBefore, h0, Nat.mul_zero, List.take_zero, decBody_nil _ hlat.nc_pos]

include hdir

/-- One more completed window in front. -/
theorem deliveredBefore_append {x m first before : List Byte} (hx : x.length = s.lat.w)
    (hfirst : packBody s (x.take (windowStep s.lat)) = .ok first)
    (hbefore : DeliveredBefore s i (x.drop (windowStep s.lat) ++ m) before) :
    DeliveredBefore s (windowStep s.lat + i) (x ++ m) (first ++ before) := by
  have hle : windowStep s.lat ≤ x.length := (windowStep_le s.lat).trans hx.ge
  obtain ⟨htake, hdrop⟩ := take_append_window hle m
  have hlen : (x.take (windowStep s.lat)).length = windowStep s.lat := List.length_take_of_le hle
  rw [packBody, hdir] at hfirst
  rw [DeliveredBefore, ← hdrop, List.length_drop] at hbefore
  rw [DeliveredBefore, windowsBefore_add hlat hdir (by rw [List.length_append]; omega), Nat.mul_add, Nat.mul_one,
    Nat.add_comm, List.take_add, htake, decBody_append _ hlat.nc_pos (by rw [hlen]; exact hlat.nc_dvd_windowStep hdir),
    decBody_from _ _ _ (0 + _), hbefore, fromIndex_ok]
  dsimp only at hfirst
  rw [hfirst, joinDecoded_ok_ok]

end

/-- ERRPOS of a fault at index i of a window that begins at message index base: WBASE is base modulo 2^32. -/
theorem errpos_from_wbase {wbase : Word} {base : Nat} (h : wbase = BitVec.ofNat 32 base) (i : Nat) :
    BitVec.ofNat 32 (wbase.toNat + i) = BitVec.ofNat 32 (base + i) := by
  rw [BitVec.ofNat_add, BitVec.ofNat_toNat, BitVec.setWidth_eq, h, BitVec.ofNat_add]

theorem joinDecoded_ok_eq_error {out : List Byte} {r : Except Nat (List Byte)} {i : Nat}
    (h : joinDecoded (.ok out) r = .error i) : r = .error i := by
  cases r with
  | error j => exact h
  | ok more => cases h

theorem fromIndex_eq_error {q i : Nat} {r : Except Nat (List Byte)} (h : fromIndex q r = .error i) :
    ∃ j, r = .error j ∧ i = q + j := by
  cases r with
  | error j => exact ⟨j, rfl, (Except.error.inj h).symm⟩
  | ok out => cases h

/-- A decoding that faults ends in ERROR with the fault's index, WBASE being the index of the window's first character,
after the bytes of the windows completed before it (R181, R182). -/
theorem Filling.runsToError {s : State} {n : Nat} (hlat : PackLatchesFor s.lat n) (hdir : s.lat.dir = .decode)
    {m : List Byte} {rest : List InToken} {i : Nat} (herr : packFinal s (s.wb ++ m) = .error i)
    (hacc : (s.wb ++ m).length < s.outAccept.length) {base : Nat} (hbase : s.wbase = BitVec.ofNat 32 base)
    (h : Filling s m rest) :
    ∃ before, RunsToError s .invalidCharacter (base + i) before rest ∧ DeliveredBefore s i (s.wb ++ m) before := by
  induction m generalizing s i base with
  | nil =>
    rw [List.append_nil] at herr hacc ⊢
    have hroom := h.room
    have hne : s.outAccept ≠ [] := List.ne_nil_of_length_pos (Nat.zero_lt_of_lt hacc)
    obtain ⟨t, hturn, ht⟩ := h.end_error herr
    refine ⟨[], RunsToError.of_run (first := []) (.of_turn hturn) (by rw [ht]; simp)
      (runsToError_of_flushErr (by rw [ht]) (by rw [ht]; exact hne)
        (.inl ⟨by rw [ht], by rw [ht]⟩) (by rw [ht]; rfl) (by rw [ht]; exact errpos_from_wbase hbase i)),
      deliveredBefore_nil hlat ?_⟩
    rw [windowsBefore, if_pos hroom, Nat.min_zero]
  | cons b m ih =>
    rw [append_cons_eq] at herr hacc ⊢
    have hlen : (s.wb ++ [b]).length = s.wb.length + 1 := by rw [List.length_append, List.length_singleton]
    have hne : s.outAccept ≠ [] := List.ne_nil_of_length_pos (Nat.zero_lt_of_lt hacc)
    rw [List.length_append, hlen] at hacc
    by_cases hw : s.wb.length + 1 = s.lat.w
    · have hle := (windowStep_le s.lat).trans (hlen.trans hw).ge
      rw [packFinal_of_full hlat (hlen.trans hw)] at herr
      cases hfirst : packBody s ((s.wb ++ [b]).take (windowStep s.lat)) with
      | error j =>
        rw [hfirst, joinDecoded_error] at herr
        obtain rfl := Except.error.inj herr
        obtain ⟨t, hturn, ht⟩ := h.window_error hw hfirst
        refine ⟨[], RunsToError.of_run (first := []) (.of_turn hturn) (by rw [ht]; simp)
          (runsToError_of_flushErr (by rw [ht]) (by rw [ht]; exact hne)
            (.inr ⟨by rw [ht]; exact h.eoseen, m, by rw [ht]⟩) (by rw [ht]; rfl)
            (by rw [ht]; exact errpos_from_wbase hbase j)),
          deliveredBefore_nil hlat ?_⟩
        rw [packBody, hdir] at hfirst
        have hlt := decBody_error_lt _ _ hfirst
        rw [List.length_take_of_le hle] at hlt
        rw [windowsBefore, Nat.div_eq_of_lt hlt, Nat.zero_min]
      | ok first =>
        rw [hfirst] at herr
        obtain ⟨j, hj, rfl⟩ := fromIndex_eq_error (joinDecoded_ok_eq_error herr)
        have hout := packBody_length_le hlat hdir hfirst
        rw [List.length_take_of_le hle] at hout
        obtain ⟨t, htook, hwb, hwbase⟩ := h.take_window hw hlat.windowStep_pos hfirst (by omega)
        have hkeep := htook.run.keeps
        obtain ⟨before, hrun, hbefore⟩ := ih (s := t) (i := j) (base := base + windowStep s.lat) (by rwa [hkeep.lat])
          (by rwa [hkeep.lat]) (by rwa [packFinal_of_keeps hkeep, hwb])
          (by rw [htook.outAccept, hwb, List.length_append, List.length_drop, List.length_drop]; omega)
          (by rw [hwbase, hbase, BitVec.ofNat_add]) htook.filling
        rw [Nat.add_assoc] at hrun
        rw [hwb] at hbefore
        exact ⟨first ++ before, hrun.of_run htook.run htook.outTokens,
          deliveredBefore_append hlat hdir (hlen.trans hw) hfirst (hbefore.of_keeps hkeep)⟩
    · obtain ⟨t, htook, hwb, hwbase⟩ := h.take_kept hw
      have hkeep := htook.run.keeps
      obtain ⟨before, hrun, hbefore⟩ := ih (s := t) (by rwa [hkeep.lat]) (by rwa [hkeep.lat])
        (by rwa [packFinal_of_keeps hkeep, hwb])
        (by rw [htook.outAccept, hwb, List.length_append, hlen]; exact hacc) (hwbase.trans hbase) htook.filling
      rw [hwb] at hbefore
      exact ⟨before, RunsToError.of_run (first := []) htook.run htook.outTokens hrun, hbefore.of_keeps hkeep⟩

/-! ### From the state START leaves -/

theorem Begun.filling {s : State} {n : Nat} {m : List Byte} {rest : List InToken} (h : Begun s m rest)
    (hlat : PackLatchesFor s.lat n) : Filling s m rest ∧ s.wb = [] ∧ s.wbase = 0 := by
  obtain ⟨-, -, hwb, hwbase, -, heos, -, -, hst, hin⟩ := h
  have hpos := hlat.w_pos
  obtain ⟨-, -, hpath, -⟩ := hlat
  rw [hpath] at hst
  exact ⟨⟨hst, hpath, heos, by rw [hwb]; exact hpos, hin⟩, hwb, hwbase⟩

end Sys2Proof.Machine

section
open Sys2Proof Sys2Proof.Machine

/-- Settles O59: by induction on the message, one byte of FILL at a time, a full window being delivered at once. -/
theorem packMessageIsWindowIndependent : Obligations.PackMessageIsWindowIndependent := by
  intro s n m out rest hb hlat hconv hacc
  obtain ⟨hfill, hwb, -⟩ := hb.filling hlat
  have hout := packFinal_of_convert_ok hfill.path hconv
  exact (hfill.runsToDone hlat (by rwa [hwb]) hacc).endsOk hb

/-- Settles O60: the same induction, to the window that faults; its index counts from WBASE. -/
theorem packDecodeFaultIsWindowIndependent : Obligations.PackDecodeFaultIsWindowIndependent := by
  intro s n m code pos rest hb hlat hdir hconv hacc
  obtain ⟨hfill, hwb, hwbase⟩ := hb.filling hlat
  obtain ⟨rfl, herr⟩ := packFinal_of_convert_err hfill.path hconv
  obtain ⟨before, hrun, hbefore⟩ := hfill.runsToError hlat hdir (by rwa [hwb]) (by rwa [hwb]) (base := 0) hwbase
  obtain ⟨t, hreach, hend⟩ := hrun.endsErr hb
  have hstep : windowStep s.lat = s.lat.w - s.lat.nc := by rw [windowStep, hdir]
  rw [Nat.zero_add] at hend
  rw [DeliveredBefore, windowsBefore, hwb, List.nil_append, hstep] at hbefore
  exact ⟨t, before, hreach, hend, hbefore⟩

end
end
